-- ==== Sys2Proof/Word.lean ====
section
/-! DEFINITION. The two word sizes of the BMP Encoder: 32-bit registers and 8-bit channels (00_scope R8). -/

namespace Sys2Proof

/-- A register, a bus word or a command word (R8, R11). -/
abbrev Word := BitVec 32

/-- A channel of a pixel or a byte of the output stream (R8). -/
abbrev Byte := BitVec 8

/-- An 8-bit byte address on the host bus (R8, R60). -/
abbrev BusAddr := BitVec 8

end Sys2Proof
end

