-- ==== Sys2Proof/Config.lean ====
section
/-! DEFINITION. What an implementation fixes: the open parameters W_MAX and H_MAX (00_scope R7), and the values
the spec leaves unspecified, as constants without a body. -/

namespace Sys2Proof.Config

/-- The two open parameters of R7 (D11). -/
structure Params where
  /-- The largest canvas width CONFIGURE accepts. -/
  wMax : Nat
  /-- The largest canvas height CONFIGURE accepts. -/
  hMax : Nat
  deriving DecidableEq, Repr

/-- DESIGN CHOICE (log entry 2): the parameters of the machine `State.reset` describes, a legal pair; the spec
leaves them open and no statement rests on them. -/
def resetParams : Params := { wMax := 32767, hMax := 32767 }

/-- OUT_DATA while OUT_VALID = 0 is unspecified (R45): a free value per step. -/
opaque freeOutData : Nat → Byte

/-- OUT_LAST while OUT_VALID = 0 is unspecified (R45): a free value per step. -/
opaque freeOutLast : Nat → Bool

/-- What a host read returns while RST is asserted: the access is not performed (R230) and the read has no
defined value (93_implementation_defined section 2): a free value per step. -/
opaque freeBusData : Nat → Word

end Sys2Proof.Config
end

