-- ==== Sys2Proof/Syntax.lean ====
section
/-! DEFINITION. The syntax: the four commands of the opcode table (30_encoding R91), the fields of a command word
(R90), the register names (10_state R22) and the host's assembly (R99, R100). -/

namespace Sys2Proof

/-- The commands, one constructor per row of opcode_table.json (R91). CONFIGURE carries its ALPHA bit; every other
operand is an operand register latched at issue (R92). -/
inductive Instr where
  | configure (hasAlpha : Bool)
  | setPixel
  | getPixel
  | serialize
  deriving DecidableEq, Repr

/-- The four fields of the CMD word (R23, R90). -/
structure CmdFields where
  op    : BitVec 4
  rsv0  : BitVec 4
  alpha : BitVec 1
  rsv1  : BitVec 23
  deriving DecidableEq, Repr

/-- The named registers of the host register map (R22). -/
inductive Reg where
  | cmd | status
  | widthIn | heightIn | xIn | yIn | rIn | gIn | bIn | aIn
  | result | curWidth | curHeight
  | bytesPP | stride | hdrSize | pixOffset | fileSize
  deriving DecidableEq, Repr

/-- The host's base statements (R99). `wr` and `rd` name a byte address, so that accesses to unmapped and
misaligned addresses (R60, R67) are statements too; a register name stands for its offset. -/
inductive Stmt where
  | wr (addr : BusAddr) (value : Int)
  | rd (addr : BusAddr)
  | configure
  | configureA
  | setPixel
  | getPixel
  | serialize
  | clrOvr
  | wait
  deriving DecidableEq, Repr

/-- The host's pseudo-instructions (R100). -/
inductive Pseudo where
  | canvas (w h : Int) (hasAlpha : Bool)
  | setpix (x y r g b : Int)
  | setpixA (x y r g b a : Int)
  | getpix (x y : Int)
  | save
  deriving DecidableEq, Repr

/-- A transaction of the host bus, always of 32 bits (R60, R66). -/
inductive BusOp where
  | read (addr : BusAddr)
  | write (addr : BusAddr) (v : Word)
  deriving DecidableEq, Repr

end Sys2Proof
end

