-- ==== Sys2Proof/WellFormed.lean ====
section
/-! DEFINITION. What is well formed: the fields of a legal command word (30_encoding R90) and the open parameters
(00_scope R7). -/

namespace Sys2Proof

/-- R90: OP is one of the four assigned opcodes. -/
def CmdFields.opAssigned (f : CmdFields) : Bool :=
  f.op == 1 || f.op == 2 || f.op == 3 || f.op == 4

/-- R90: `v[8] = 0` unless `v[3:0] = 0x1`. -/
def CmdFields.alphaAllowed (f : CmdFields) : Bool := f.alpha == 0 || f.op == 1

/-- R90: a legal command word, by its fields. -/
def CmdFields.legal (f : CmdFields) : Bool :=
  f.opAssigned && f.rsv0 == 0 && f.rsv1 == 0 && f.alphaAllowed

/-- The fields each command is encoded with (R91, R94; opcode_table.json). -/
def Instr.fields : Instr → CmdFields
  | .configure al => { op := 1, rsv0 := 0, alpha := BitVec.ofBool al, rsv1 := 0 }
  | .setPixel     => { op := 2, rsv0 := 0, alpha := 0, rsv1 := 0 }
  | .getPixel     => { op := 3, rsv0 := 0, alpha := 0, rsv1 := 0 }
  | .serialize    => { op := 4, rsv0 := 0, alpha := 0, rsv1 := 0 }

/-- A command is well formed when its fields are those of a legal command word. -/
def Instr.wellFormed (i : Instr) : Bool := i.fields.legal

/-- R7: 1 ≤ W_MAX ≤ 2^31 − 1. -/
def Config.Params.widthOk (p : Config.Params) : Bool := decide (1 ≤ p.wMax) && decide (p.wMax ≤ 2 ^ 31 - 1)

/-- R7: 1 ≤ H_MAX ≤ 2^31 − 1. -/
def Config.Params.heightOk (p : Config.Params) : Bool := decide (1 ≤ p.hMax) && decide (p.hMax ≤ 2 ^ 31 - 1)

/-- R7: `70 + H_MAX × ((4 × W_MAX + 3) AND NOT 3) ≤ 2^32 − 1`; `(4 × W_MAX + 3) AND NOT 3` is `4 × W_MAX`. -/
def Config.Params.sizeOk (p : Config.Params) : Bool :=
  decide (70 + p.hMax * ((4 * p.wMax + 3) / 4 * 4) ≤ 2 ^ 32 - 1)

/-- R7: the parameters an implementation may have. -/
def Config.Params.legal (p : Config.Params) : Bool := p.widthOk && p.heightOk && p.sizeOk

end Sys2Proof
end

