-- ==== Sys2Proof/Decode.lean ====
section
/-! DEFINITION. The decoder of a command word (30_encoding R90, R96, R97), total and rejecting by name, and the
encoder (opcode_table.json; R99). -/

namespace Sys2Proof

/-- Why a command word is illegal: R97's conditions. The names are the model's and nothing reports them (DESIGN CHOICE,
log entry 21). -/
inductive DecodeError where
  /-- Opcode 0x0 or 0x5 to 0xF. -/
  | reservedOpcode
  /-- A nonzero bit in 7:4. -/
  | rsv0NotZero
  /-- A nonzero bit in 31:9. -/
  | rsv1NotZero
  /-- Bit 8 set with an opcode other than 0x1. -/
  | alphaNotAllowed
  deriving DecidableEq, Repr

/-- The fields of a command word (R23): OP = v[3:0], RSV0 = v[7:4], ALPHA = v[8], RSV1 = v[31:9]. -/
def splitWord (v : Word) : CmdFields :=
  { op := v.extractLsb' 0 4, rsv0 := v.extractLsb' 4 4, alpha := v.extractLsb' 8 1, rsv1 := v.extractLsb' 9 23 }

/-- R96: which command the fields stand for; every field is checked, and no reserved pattern falls through. The order
in which the reasons are tried is the model's (DESIGN CHOICE, log entry 21). -/
def decodeFields (f : CmdFields) : Except DecodeError Instr :=
  if f.opAssigned = false then .error .reservedOpcode
  else if f.rsv0 ≠ 0 then .error .rsv0NotZero
  else if f.rsv1 ≠ 0 then .error .rsv1NotZero
  else if f.alphaAllowed = false then .error .alphaNotAllowed
  else if f.op = 1 then .ok (.configure (f.alpha == 1))
  else if f.op = 2 then .ok .setPixel
  else if f.op = 3 then .ok .getPixel
  else .ok .serialize

/-- The decoder: every 32-bit word is a command or an illegal command word (R90, R98). -/
def decode (v : Word) : Except DecodeError Instr := decodeFields (splitWord v)

/-- R90: a legal command word is one the decoder accepts. -/
def legalWord (v : Word) : Bool := (splitWord v).legal

/-- The command word of given fields (R90). -/
def joinFields (f : CmdFields) : Word := f.rsv1 ++ f.alpha ++ f.rsv0 ++ f.op

/-- The encoder: the CMD word of a command (R90, opcode_table.json). -/
def encode (i : Instr) : Word := joinFields i.fields

/-- The command the decoder reads from a table word of `nbits` bits (every command word is 32 bits, R98). -/
def decodeTableWord (nbits w : Nat) : Option Instr :=
  match decode (BitVec.ofNat 32 (w % 2 ^ nbits)) with
  | .ok i    => some i
  | .error _ => none

/-- A register's offset in the register space (R22). -/
def Reg.offset : Reg → BusAddr
  | .cmd => 0x00 | .status => 0x04
  | .widthIn => 0x08 | .heightIn => 0x0C | .xIn => 0x10 | .yIn => 0x14
  | .rIn => 0x18 | .gIn => 0x1C | .bIn => 0x20 | .aIn => 0x24
  | .result => 0x28 | .curWidth => 0x2C | .curHeight => 0x30
  | .bytesPP => 0x34 | .stride => 0x38 | .hdrSize => 0x3C | .pixOffset => 0x40 | .fileSize => 0x44

/-- R60, R67: the slot of an address is `addr[7:2]`; `addr[1:0]` is ignored. -/
def slotOf (addr : BusAddr) : BitVec 6 := addr.extractLsb' 2 6

/-- The named registers in the order of the register map (R22). -/
def Reg.all : List Reg :=
  [.cmd, .status, .widthIn, .heightIn, .xIn, .yIn, .rIn, .gIn, .bIn, .aIn, .result, .curWidth, .curHeight,
   .bytesPP, .stride, .hdrSize, .pixOffset, .fileSize]

/-- The register an address reaches, if its slot has one (R22, R60): the map fills slots 0 to 17 in order. -/
def regAt (addr : BusAddr) : Option Reg := Reg.all[(slotOf addr).toNat]?

/-- `u32(i)`, the 32-bit pattern of an integer (R12). -/
def u32 (i : Int) : Word := BitVec.ofInt 32 i

/-- R99: the bus transaction of a base statement (WAIT is a loop of reads of STATUS; this is one of them). -/
def Stmt.encode : Stmt → BusOp
  | .wr a v     => .write a (u32 v)
  | .rd a       => .read a
  | .configure  => .write Reg.cmd.offset (Sys2Proof.encode (.configure false))
  | .configureA => .write Reg.cmd.offset (Sys2Proof.encode (.configure true))
  | .setPixel   => .write Reg.cmd.offset (Sys2Proof.encode .setPixel)
  | .getPixel   => .write Reg.cmd.offset (Sys2Proof.encode .getPixel)
  | .serialize  => .write Reg.cmd.offset (Sys2Proof.encode .serialize)
  | .clrOvr     => .write Reg.status.offset 0x00000008
  | .wait       => .read Reg.status.offset

/-- R100: the expansions of the pseudo-instructions. -/
def Pseudo.expand : Pseudo → List Stmt
  | .canvas w h al =>
    [.wr Reg.widthIn.offset w, .wr Reg.heightIn.offset h, if al then .configureA else .configure, .wait]
  | .setpix x y r g b =>
    [.wr Reg.xIn.offset x, .wr Reg.yIn.offset y, .wr Reg.rIn.offset r, .wr Reg.gIn.offset g,
     .wr Reg.bIn.offset b, .wr Reg.aIn.offset 255, .setPixel, .wait]
  | .setpixA x y r g b a =>
    [.wr Reg.xIn.offset x, .wr Reg.yIn.offset y, .wr Reg.rIn.offset r, .wr Reg.gIn.offset g,
     .wr Reg.bIn.offset b, .wr Reg.aIn.offset a, .setPixel, .wait]
  | .getpix x y =>
    [.wr Reg.xIn.offset x, .wr Reg.yIn.offset y, .getPixel, .wait, .rd Reg.result.offset]
  | .save => [.serialize, .wait]

end Sys2Proof
end

