-- ==== Sys2Proof/Machine/State.lean ====
section
/-! DEFINITION. The state of the block and of the agents around it (10_state), as plain data; the outcomes' reasons;
the state after reset (R46). -/

namespace Sys2Proof.Machine

/-- A pixel store entry: four 8-bit channels (R37), written (r, g, b, a) (R14). -/
structure Pixel where
  r : Byte
  g : Byte
  b : Byte
  a : Byte
  deriving DecidableEq, Repr

/-- The result codes of STATUS.ERR that are ever produced (R28, R201). -/
inductive ErrCode where
  | ok
  | invalidDimension
  | outOfBounds
  | noCanvas
  | illegalCommand
  deriving DecidableEq, Repr

/-- The engine phase PHASE (R40). -/
inductive Phase where
  | idle
  | exec
  | stream
  deriving DecidableEq, Repr

/-- The eight operand registers WIDTH_IN, HEIGHT_IN, X_IN, Y_IN, R_IN, G_IN, B_IN, A_IN (R29, R30), and the copy of
them that LC holds (R41). -/
structure Operands where
  w : Word
  h : Word
  x : Word
  y : Word
  r : Word
  g : Word
  b : Word
  a : Word
  deriving DecidableEq, Repr

/-- The latched command LC (R41). -/
structure Latched where
  op   : BitVec 4
  word : Word
  ops  : Operands
  deriving DecidableEq, Repr

/-- The five layout registers (R34). -/
structure Layout where
  bytesPP   : Word
  stride    : Word
  hdrSize   : Word
  pixOffset : Word
  fileSize  : Word
  deriving DecidableEq, Repr

/-- The output stream port as the block drives it: OUT_VALID, OUT_DATA, OUT_LAST (R45, R170). -/
structure OutPort where
  valid : Bool
  data  : Byte
  last  : Bool
  deriving DecidableEq, Repr

/-- The pixel store PIX (R37): entry number and pixel, in one canonical form (`PixStore.WF` of Machine/Ops.lean). -/
abbrev PixStore := List (Nat × Pixel)

/-- A host read and the value it returned (R60). -/
structure BusRead where
  addr : BusAddr
  data : Word
  deriving DecidableEq, Repr

/-- A transfer of the output stream, `Emit(k, b)` with its OUT_LAST (R62, R170). -/
structure Transfer where
  offset : Nat
  data   : Byte
  last   : Bool
  deriving DecidableEq, Repr

/-- One atomic move of one agent (R10, R74). -/
inductive Move where
  /-- The host performs the next access of its program. -/
  | host
  /-- The engine takes a step: a command's completion step, or raising OUT_VALID. -/
  | engine
  /-- A transfer; `hold` says that OUT_VALID stays raised, with the next byte, if there is one. -/
  | transfer (hold : Bool)
  /-- The sink drives OUT_READY. -/
  | sink (ready : Bool)
  /-- The reset input RST is asserted or released. -/
  | rst (asserted : Bool)
  deriving DecidableEq, Repr

/-- The whole state: the block (R20), its input pins, and the agents' own data. -/
structure State where
  /-- W_MAX and H_MAX (R7): configuration that no step changes (log entry 2). -/
  params     : Config.Params
  /-- STATUS.CONFIGURED (R25). -/
  configured : Bool
  /-- STATUS.ALPHA (R27). -/
  alpha      : Bool
  /-- STATUS.OVR (R26). -/
  ovr        : Bool
  /-- STATUS.ERR (R28). -/
  err        : ErrCode
  /-- The operand registers (R29, R30). -/
  regs       : Operands
  /-- RESULT (R32). -/
  result     : Word
  /-- CUR_WIDTH (R33). -/
  curWidth   : Word
  /-- CUR_HEIGHT (R33). -/
  curHeight  : Word
  /-- BYTES_PP, STRIDE, HDR_SIZE, PIX_OFFSET, FILE_SIZE (R34). -/
  layout     : Layout
  /-- The pixel store PIX (R37). -/
  pix        : PixStore
  /-- The engine phase PHASE (R40); STATUS.BUSY is `phase ≠ idle` (R24). -/
  phase      : Phase
  /-- The latched command LC (R41). -/
  lc         : Latched
  /-- The stream cursor K (R42). -/
  k          : Word
  /-- The colour count N (R42). -/
  n          : Word
  /-- OUT_VALID, OUT_DATA, OUT_LAST (R45). -/
  out        : OutPort
  /-- OUT_READY, driven by the sink (R45). -/
  outReady   : Bool
  /-- RST, true while asserted (R230). -/
  rst        : Bool
  /-- The model's own: the statements the host has still to perform (R68, R99). -/
  program    : List Stmt
  /-- The model's own: which agent moves next, oldest first (R74, log entry 1). -/
  sched      : List Move
  /-- The model's own: what the host has read, newest first. -/
  busLog     : List BusRead
  /-- The model's own: what the sink has taken, newest first. -/
  sinkLog    : List Transfer
  /-- The model's own: the counter the free values are applied to; every step advances it. -/
  draws      : Nat
  deriving DecidableEq, Repr

/-- Why the machine may stop. The block itself takes no trap and its bus never faults (R206, R67). -/
inductive Fault where
  /-- Raised by the engine and by a transfer in phase STREAM when the cursor has no byte: FileByte(k) is defined for
  0 ≤ k < fs only (R150). Safe: no state that meets the invariant raises it (log entry 12). -/
  | byteOutsideFile
  deriving DecidableEq, Repr

/-- Why an instruction may have no meaning. -/
inductive Refusal where
  /-- Raised by an arm of `exec` whose instruction has no meaning yet; no arm is such. Safe. -/
  | notModelled (mnemonic : String)
  deriving DecidableEq, Repr

/-- The operand registers after reset (R29, R30, R46). -/
def Operands.reset : Operands := { w := 0, h := 0, x := 0, y := 0, r := 0, g := 0, b := 0, a := 0x000000FF }

/-- LC after reset: unspecified by R41; DESIGN CHOICE zero (log entry 5). -/
def Latched.reset : Latched :=
  { op := 0, word := 0, ops := { w := 0, h := 0, x := 0, y := 0, r := 0, g := 0, b := 0, a := 0 } }

/-- The layout registers while no canvas exists (R35, R46). -/
def Layout.none : Layout := { bytesPP := 0, stride := 0, hdrSize := 0, pixOffset := 0, fileSize := 0 }

/-- The output port after reset: OUT_VALID = 0; OUT_DATA and OUT_LAST are unspecified by R45; DESIGN CHOICE zero
(log entry 7). -/
def OutPort.reset : OutPort := { valid := false, data := 0, last := false }

/-- The machine right after reset (R46, R230): RST released, nothing scheduled, no host program, a sink that is
ready (log entries 1, 2, 3, 5, 6, 7, 8, 9, 10, 16). -/
def State.reset : State :=
  { params := Config.resetParams
    configured := false
    alpha := false
    ovr := false
    err := .ok
    regs := Operands.reset
    result := 0
    curWidth := 0
    curHeight := 0
    layout := Layout.none
    pix := []
    phase := .idle
    lc := Latched.reset
    k := 0
    n := 0
    out := OutPort.reset
    outReady := true
    rst := false
    program := []
    sched := []
    busLog := []
    sinkLog := []
    draws := 0 }

end Sys2Proof.Machine
end

