-- ==== Sys2Proof/Machine/Flags.lean ====
section
/-! DEFINITION. The flags: the STATUS register's fields and word (10_state R24 to R28, R36). -/

namespace Sys2Proof.Machine

/-- The 4-bit code of STATUS.ERR (R201). -/
def ErrCode.code : ErrCode → BitVec 4
  | .ok => 0
  | .invalidDimension => 1
  | .outOfBounds => 2
  | .noCanvas => 3
  | .illegalCommand => 4

/-- STATUS.BUSY: 1 exactly while the engine phase is not IDLE (R24). -/
def State.busy (s : State) : Bool := decide (s.phase ≠ .idle)

/-- STATUS as the host reads it: ERR in 7:4, OVR 3, ALPHA 2, CONFIGURED 1, BUSY 0; 31:8 read 0 (10_state 2.2). -/
def State.statusWord (s : State) : Word :=
  (0 : BitVec 24) ++ s.err.code ++ BitVec.ofBool s.ovr ++ BitVec.ofBool s.alpha ++ BitVec.ofBool s.configured
    ++ BitVec.ofBool s.busy

/-- A host write to STATUS (R26): bit 3 = 1 clears OVR; every other bit of the value is ignored. -/
def writeStatus (v : Word) (s : State) : State :=
  if v.getLsbD 3 then { s with ovr := false } else s

end Sys2Proof.Machine
end

