-- ==== Sys2Proof/Machine/Ops.lean ====
section
/-! DEFINITION. The shared operations: the byte sequences (20_memory R63), the pixel store (10_state R37, 20_memory
R61), issue (30_encoding R95), the two ends of a command (60_exceptions R200, 00_scope R13), reset (70_reset R230). -/

namespace Sys2Proof.Machine

/-! ### Byte sequences (R63) -/

/-- `le16(v) = [v[7:0], v[15:8]]`. -/
def le16 (v : BitVec 16) : List Byte := [v.extractLsb' 0 8, v.extractLsb' 8 8]

/-- `le32(v) = [v[7:0], v[15:8], v[23:16], v[31:24]]`. -/
def le32 (v : Word) : List Byte :=
  [v.extractLsb' 0 8, v.extractLsb' 8 8, v.extractLsb' 16 8, v.extractLsb' 24 8]

/-- `be32(v) = [v[31:24], v[23:16], v[15:8], v[7:0]]`. -/
def be32 (v : Word) : List Byte :=
  [v.extractLsb' 24 8, v.extractLsb' 16 8, v.extractLsb' 8 8, v.extractLsb' 0 8]

/-! ### The pixel store (R37, R61) -/

/-- The default pixel: black, fully opaque (R116). -/
def defaultPixel : Pixel := { r := 0, g := 0, b := 0, a := 255 }

/-- What an entry that the list does not name reads as. DESIGN CHOICE (log entry 3): R38 leaves the entries
unspecified at reset; the model reads them as the default pixel. -/
def unlistedPixel : Pixel := defaultPixel

/-- The number of entry (x, y). DESIGN CHOICE (log entry 4): R61 leaves the layout open; row-major order, one row
per 2^32 numbers. -/
def pixAddr (x y : Nat) : Nat := y * 2 ^ 32 + x

/-- The column of an entry number. -/
def pixCol (a : Nat) : Nat := a % 2 ^ 32

/-- The row of an entry number. -/
def pixRow (a : Nat) : Nat := a / 2 ^ 32

/-- The entry of a given number. -/
def pixGet : PixStore → Nat → Pixel
  | [], _ => unlistedPixel
  | (b, p) :: m, a => if b = a then p else pixGet m a

/-- List an entry, unless it is what an unlisted entry reads as. -/
def pixCons (a : Nat) (p : Pixel) (m : PixStore) : PixStore :=
  if p = unlistedPixel then m else (a, p) :: m

/-- Replace the entry of a given number as a whole (R70), keeping the canonical form. -/
def pixPut : PixStore → Nat → Pixel → PixStore
  | [], a, p => pixCons a p []
  | (b, q) :: m, a, p =>
    if a < b then pixCons a p ((b, q) :: m)
    else if b = a then pixCons a p m
    else (b, q) :: pixPut m a p

/-- Is the entry of this number on the w × h canvas? -/
def onCanvas (w h a : Nat) : Bool := decide (pixCol a < w) && decide (pixRow a < h)

/-- Set every entry of the w × h canvas to the default pixel and leave the others alone (R116). -/
def pixClear (w h : Nat) (m : PixStore) : PixStore := m.filter (fun e => !onCanvas w h e.1)

/-- The canonical form: entry numbers strictly rising, and no entry equal to what an unlisted one reads as. -/
abbrev PixStore.WF (m : PixStore) : Prop :=
  m.Pairwise (fun e f => e.1 < f.1) ∧ ∀ e ∈ m, e.2 ≠ unlistedPixel

/-- `PixRead(x, y)` (R13, R61). -/
def pixRead (s : State) (x y : Nat) : Pixel := pixGet s.pix (pixAddr x y)

/-- `PixWrite(x, y, t)` (R13, R61). -/
def pixWrite (x y : Nat) (p : Pixel) (s : State) : State := { s with pix := pixPut s.pix (pixAddr x y) p }

/-! ### Issue and completion -/

/-- An accepted issue of command word v (R95): LC is latched, ERR cleared, PHASE becomes EXEC. -/
def issueAccepted (v : Word) (s : State) : State :=
  { s with lc := { op := v.extractLsb' 0 4, word := v, ops := s.regs }, err := .ok, phase := .exec }

/-- A host write of v to CMD (R95): dropped with OVR set while BUSY, accepted otherwise. -/
def issue (v : Word) (s : State) : State :=
  if s.busy then { s with ovr := true } else issueAccepted v s

/-- `raise Error(code)`: the command ends in one step and makes no other change (R13, R200). The block takes no trap:
this is the whole of its exception entry, and there is no return from it (R206). -/
def raiseError (c : ErrCode) (s : State) : State := { s with err := c, phase := .idle }

/-- `complete()`: the command ends with ERR = 0 (R13). -/
def complete (s : State) : State := { s with err := .ok, phase := .idle }

/-! ### Reset -/

/-- RST is asserted (R230): every piece of the block's state takes its reset value (R46). The parameters, the sink's
pin and the agents' own data are not the block's and stay. -/
def holdReset (s : State) : State :=
  { State.reset with
    params := s.params, outReady := s.outReady, rst := true, program := s.program, sched := s.sched,
    busLog := s.busLog, sinkLog := s.sinkLog, draws := s.draws }

/-- RST is released (R230): the block stays at its reset values. -/
def releaseReset (s : State) : State := { s with rst := false }

end Sys2Proof.Machine
end

