-- ==== Sys2Proof/Machine/Layout.lean ====
section
/-! DEFINITION. The header generator's layout functions (40_configure R111 to R115, R120), on unbounded
non-negative integers (00_scope R12). -/

namespace Sys2Proof.Machine

/-- Bytes per pixel (R111). -/
def bpp (al : Bool) : Nat := if al then 4 else 3

/-- Row stride (R112): `(w × bpp + 3) AND NOT 3`, the row byte count rounded up to a multiple of 4. -/
def stride (w : Nat) (al : Bool) : Nat := (w * bpp al + 3) / 4 * 4

/-- DIB header size (R113). -/
def headerSize (al : Bool) : Nat := if al then 56 else 40

/-- Pixel-data offset (R114). -/
def pixelOffset (al : Bool) : Nat := 14 + headerSize al

/-- File size (R115). -/
def fileSize (w h : Nat) (al : Bool) : Nat := pixelOffset al + h * stride w al

/-- Bits per pixel (R120). -/
def bitsPP (al : Bool) : Nat := 8 * bpp al

/-- The five layout registers of a canvas (R34, R116). -/
def layoutOf (w h : Nat) (al : Bool) : Layout :=
  { bytesPP := BitVec.ofNat 32 (bpp al)
    stride := BitVec.ofNat 32 (stride w al)
    hdrSize := BitVec.ofNat 32 (headerSize al)
    pixOffset := BitVec.ofNat 32 (pixelOffset al)
    fileSize := BitVec.ofNat 32 (fileSize w h al) }

end Sys2Proof.Machine
end

