-- ==== Sys2Proof/Machine/Operands.lean ====
section
/-! DEFINITION. Every operand form: the signed operands of the latched command (30_encoding R92), the channel clamp
(41_pixel_access R130), the dimension check (40_configure R110), the bounds check (41_pixel_access R133), and the
host's conversion of a non-integral channel (R131). -/

namespace Sys2Proof.Machine

/-- `w = signed(LC.w)` (R92). -/
def opWidth (s : State) : Int := s.lc.ops.w.toInt
/-- `h = signed(LC.h)` (R92). -/
def opHeight (s : State) : Int := s.lc.ops.h.toInt
/-- `x = signed(LC.x)` (R92). -/
def opX (s : State) : Int := s.lc.ops.x.toInt
/-- `y = signed(LC.y)` (R92). -/
def opY (s : State) : Int := s.lc.ops.y.toInt

/-- The channel clamp (R130). -/
def clamp8 (v : Int) : Byte := if v < 0 then 0 else if v > 255 then 255 else BitVec.ofInt 8 v

/-- The pixel SET_PIXEL stores (R134, R135): each channel clamped; alpha 255 on a 24-bit canvas. -/
def opPixel (s : State) : Pixel :=
  { r := clamp8 s.lc.ops.r.toInt
    g := clamp8 s.lc.ops.g.toInt
    b := clamp8 s.lc.ops.b.toInt
    a := if s.alpha then clamp8 s.lc.ops.a.toInt else 255 }

/-- `dimsValid(w, h)` (R110). -/
def dimsValid (p : Config.Params) (w h : Int) : Bool :=
  decide (1 ≤ w) && decide (w ≤ p.wMax) && decide (1 ≤ h) && decide (h ≤ p.hMax)

/-- `inBounds(x, y)` (R133): signed coordinates against the unsigned CUR_WIDTH and CUR_HEIGHT. -/
def inBounds (s : State) (x y : Int) : Bool :=
  decide (0 ≤ x) && decide (x < s.curWidth.toNat) && decide (0 ≤ y) && decide (y < s.curHeight.toNat)

/-- The pixel as GET_PIXEL reports it: alpha 255 on a 24-bit canvas (R140). -/
def reported (s : State) (p : Pixel) : Pixel := { p with a := if s.alpha then p.a else 255 }

/-- RESULT's packing `{a, b, g, r}` (R140, 10_state 2.4). -/
def packPixel (p : Pixel) : Word := p.a ++ p.b ++ p.g ++ p.r

/-- Saturation at the ends of the 32-bit signed range (R131). -/
def saturate32 (v : Int) : Int := max (-2 ^ 31) (min (2 ^ 31 - 1) v)

/-- What the host writes for a non-integral channel value (R131): truncated toward zero, then saturated. The host's
duty; the block never sees the rational (log entry 18). -/
def hostConvert (q : Rat) : Word := u32 (saturate32 (Int.tdiv q.num q.den))

end Sys2Proof.Machine
end

