-- ==== Sys2Proof/Machine/Bus.lean ====
section
/-! DEFINITION. The host register space and the host (20_memory R60, R66 to R69; 10_state R22; 30_encoding R95, R99). -/

namespace Sys2Proof.Machine

/-- The value of a named register (R22): CMD is write-only and reads 0 (R23). -/
def readReg (s : State) : Reg → Word
  | .cmd => 0
  | .status => s.statusWord
  | .widthIn => s.regs.w
  | .heightIn => s.regs.h
  | .xIn => s.regs.x
  | .yIn => s.regs.y
  | .rIn => s.regs.r
  | .gIn => s.regs.g
  | .bIn => s.regs.b
  | .aIn => s.regs.a
  | .result => s.result
  | .curWidth => s.curWidth
  | .curHeight => s.curHeight
  | .bytesPP => s.layout.bytesPP
  | .stride => s.layout.stride
  | .hdrSize => s.layout.hdrSize
  | .pixOffset => s.layout.pixOffset
  | .fileSize => s.layout.fileSize

/-- `MemRead(addr, 4)`: a slot with no named register reads 0 (R60); no side effect (R69). -/
def busRead (s : State) (addr : BusAddr) : Word :=
  match regAt addr with
  | some r => readReg s r
  | none => 0

/-- A host write to a named register: CMD issues (R95), STATUS clears OVR (R26), the operand registers store (R29,
R30), the read-only registers ignore it (R22). -/
def writeReg (v : Word) (s : State) : Reg → State
  | .cmd => issue v s
  | .status => writeStatus v s
  | .widthIn => { s with regs := { s.regs with w := v } }
  | .heightIn => { s with regs := { s.regs with h := v } }
  | .xIn => { s with regs := { s.regs with x := v } }
  | .yIn => { s with regs := { s.regs with y := v } }
  | .rIn => { s with regs := { s.regs with r := v } }
  | .gIn => { s with regs := { s.regs with g := v } }
  | .bIn => { s with regs := { s.regs with b := v } }
  | .aIn => { s with regs := { s.regs with a := v } }
  | .result => s
  | .curWidth => s
  | .curHeight => s
  | .bytesPP => s
  | .stride => s
  | .hdrSize => s
  | .pixOffset => s
  | .fileSize => s

/-- `MemWrite(addr, 4, v)`: a slot with no named register ignores it (R60). -/
def busWrite (s : State) (addr : BusAddr) (v : Word) : State :=
  match regAt addr with
  | some r => writeReg v s r
  | none => s

/-- What a host read returns: while RST is asserted it is not performed and its value is free (R230, log entry 8). -/
def busData (s : State) (addr : BusAddr) : Word :=
  if s.rst then Config.freeBusData s.draws else busRead s addr

/-- The host notes a value it has read. -/
def logRead (addr : BusAddr) (v : Word) (s : State) : State :=
  { s with busLog := { addr := addr, data := v } :: s.busLog }

/-- One host access (R68); a write while RST is asserted is not performed (R230). -/
def performAccess (op : BusOp) (s : State) : State :=
  match op with
  | .read a => logRead a (busData s a) s
  | .write a v => if s.rst then s else busWrite s a v

/-- WAIT: one read of STATUS; the statement is done when bit 0 of the value read is 0 (R99). -/
def performWait (rest : List Stmt) (s : State) : State :=
  let v := busData s Reg.status.offset
  let s' := logRead Reg.status.offset v s
  if v.getLsbD 0 then s' else { s' with program := rest }

/-- The host's move: the next access of its program (R68, R99); nothing when the program is over (R248). -/
def hostMove (s : State) : State :=
  match s.program with
  | [] => s
  | .wait :: rest => performWait rest s
  | st :: rest => performAccess st.encode { s with program := rest }

end Sys2Proof.Machine
end

