-- ==== Sys2Proof/Machine/Configure.lean ====
section
/-! DEFINITION. CONFIGURE (40_configure R116, R117). -/

namespace Sys2Proof.Machine

/-- The canvas a successful CONFIGURE constructs (R116): every canvas entry at the default pixel, the dimensions,
the alpha mode and the layout registers, CONFIGURED. -/
def constructCanvas (w h : Nat) (al : Bool) (s : State) : State :=
  { s with
    pix := pixClear w h s.pix
    curWidth := BitVec.ofNat 32 w
    curHeight := BitVec.ofNat 32 h
    alpha := al
    layout := layoutOf w h al
    configured := true }

/-- CONFIGURE (R116). -/
def execConfigure (hasAlpha : Bool) (s : State) : Host.Outcome State Fault Refusal :=
  if dimsValid s.params (opWidth s) (opHeight s) then
    .next (complete (constructCanvas (opWidth s).toNat (opHeight s).toNat hasAlpha s))
  else .next (raiseError .invalidDimension s)

end Sys2Proof.Machine
end

