-- ==== Sys2Proof/Machine/PixelAccess.lean ====
section
/-! DEFINITION. SET_PIXEL and GET_PIXEL (41_pixel_access R134, R135, R140). -/

namespace Sys2Proof.Machine

/-- The checks both accessors make (R203, R133), in the order of R204: the canvas, then the bounds. -/
def accessError (s : State) : Option ErrCode :=
  if s.configured = false then some .noCanvas
  else if inBounds s (opX s) (opY s) = false then some .outOfBounds
  else none

/-- SET_PIXEL (R134). -/
def execSetPixel (s : State) : Host.Outcome State Fault Refusal :=
  match accessError s with
  | some c => .next (raiseError c s)
  | none => .next (complete (pixWrite (opX s).toNat (opY s).toNat (opPixel s) s))

/-- GET_PIXEL (R140). -/
def execGetPixel (s : State) : Host.Outcome State Fault Refusal :=
  match accessError s with
  | some c => .next (raiseError c s)
  | none =>
    .next (complete { s with result := packPixel (reported s (pixRead s (opX s).toNat (opY s).toNat)) })

end Sys2Proof.Machine
end

