-- ==== Sys2Proof/Machine/Serialize.lean ====
section
/-! DEFINITION. SERIALIZE: the bytes of the file (42_serialize R150 to R159), the distinct-colour count (R160), the
start of the stream (R171, R172). -/

namespace Sys2Proof.Machine

/-! ### The headers -/

/-- Offsets 0 to 13 (R151 to R154). -/
def fileHeader (s : State) : List Byte :=
  [0x42, 0x4D] ++ le32 s.layout.fileSize ++ [0, 0, 0, 0] ++ le32 s.layout.pixOffset

/-- The height field: `u32(−h)`, the top-down sign (R155). -/
def heightField (s : State) : Word := u32 (-(s.curHeight.toNat : Int))

/-- Offsets 14 to 53 (R155 to R157). -/
def dibBase (s : State) : List Byte :=
  le32 s.layout.hdrSize ++ le32 s.curWidth ++ le32 (heightField s)
    ++ le16 1 ++ le16 (BitVec.ofNat 16 (bitsPP s.alpha))
    ++ le32 0 ++ le32 0 ++ le32 2835 ++ le32 2835 ++ le32 s.n ++ le32 0

/-- Offsets 54 to 69 of a 32-bit canvas: the big-endian masks, red, green, blue, alpha (R158). -/
def maskBlock (s : State) : List Byte :=
  if s.alpha then be32 0x0000FF00 ++ be32 0x00FF0000 ++ be32 0xFF000000 ++ be32 0x000000FF else []

/-- The bytes before the pixel data (R150). -/
def headerBytes (s : State) : List Byte := fileHeader s ++ dibBase s ++ maskBlock s

/-! ### The pixel data -/

/-- Byte c of a pixel in the file: blue, green, red, alpha (R65, R159). -/
def channelByte (p : Pixel) (c : Nat) : Byte :=
  match c with
  | 0 => p.b
  | 1 => p.g
  | 2 => p.r
  | _ => p.a

/-- Byte o of row y: `w × bpp` pixel bytes, then zero padding (R159). -/
def rowByte (s : State) (y o : Nat) : Byte :=
  if o < s.curWidth.toNat * s.layout.bytesPP.toNat then
    channelByte (pixRead s (o / s.layout.bytesPP.toNat) y) (o % s.layout.bytesPP.toNat)
  else 0

/-- Byte j of the pixel data (R159). -/
def pixelByte (s : State) (j : Nat) : Byte :=
  rowByte s (j / s.layout.stride.toNat) (j % s.layout.stride.toNat)

/-- `FileByte(k)`, for 0 ≤ k < fs only (R150, R159). -/
def fileByte (s : State) (k : Nat) : Option Byte :=
  if k < s.layout.fileSize.toNat then
    if k < s.layout.pixOffset.toNat then (headerBytes s)[k]?
    else some (pixelByte s (k - s.layout.pixOffset.toNat))
  else none

/-! ### The distinct-colour count -/

/-- The number of distinct members of a list. -/
def distinctCount : List Pixel → Nat
  | [] => 0
  | p :: ps => if p ∈ ps then distinctCount ps else distinctCount ps + 1

/-- The canvas entries, row by row (R160). -/
def canvasPixels (s : State) : List Pixel :=
  (List.range s.curHeight.toNat).flatMap fun y => (List.range s.curWidth.toNat).map fun x => pixRead s x y

/-- `UniqueCount()`: the number of distinct 4-tuples among the canvas entries (R160). -/
def uniqueCount (s : State) : Nat := distinctCount (canvasPixels s)

/-! ### The command -/

/-- `start()` (R172): N, K and PHASE in one step. -/
def startStream (s : State) : State :=
  { s with n := BitVec.ofNat 32 (uniqueCount s), k := 0, phase := .stream }

/-- SERIALIZE's step after decode (R171); the transfers of phase STREAM are in Machine/Stream.lean. -/
def execSerialize (s : State) : Host.Outcome State Fault Refusal :=
  if s.configured = false then .next (raiseError .noCanvas s) else .next (startStream s)

end Sys2Proof.Machine
end

