-- ==== Sys2Proof/Machine/Dispatch.lean ====
section
/-! DEFINITION. The meaning of each command (30_encoding R96): one arm per constructor. -/

namespace Sys2Proof.Machine

def exec (i : Instr) (s : State) : Host.Outcome State Fault Refusal :=
  match i with
  | .configure al => Sys2Proof.Machine.execConfigure al s
  | .setPixel => Sys2Proof.Machine.execSetPixel s
  | .getPixel => Sys2Proof.Machine.execGetPixel s
  | .serialize => Sys2Proof.Machine.execSerialize s

end Sys2Proof.Machine
end

