-- ==== Sys2Proof/Machine/Stream.lean ====
section
/-! DEFINITION. The output stream port in phase STREAM (42_serialize R170, R171). -/

namespace Sys2Proof.Machine

/-- OUT_DATA as the sink sees it: unspecified while OUT_VALID = 0 (R45, log entry 7). -/
def State.outDataPin (s : State) : Byte := if s.out.valid then s.out.data else Config.freeOutData s.draws

/-- OUT_LAST as the sink sees it: unspecified while OUT_VALID = 0 (R45, log entry 7). -/
def State.outLastPin (s : State) : Bool := if s.out.valid then s.out.last else Config.freeOutLast s.draws

/-- Raise OUT_VALID with `OUT_DATA = FileByte(K)` and `OUT_LAST = (K = fs − 1)` (R170). A cursor that has no byte is
a fault of the model (log entry 12). -/
def driveByte (s : State) : Host.Outcome State Fault Refusal :=
  match fileByte s s.k.toNat with
  | some b =>
    .next { s with out := { valid := true, data := b, last := decide (s.k.toNat + 1 = s.layout.fileSize.toNat) } }
  | none => .fault .byteOutsideFile

/-- The engine's step in phase STREAM (R170): raise OUT_VALID; once raised it holds with stable data. -/
def raiseValid (s : State) : Host.Outcome State Fault Refusal :=
  if s.out.valid then .next s else driveByte s

/-- A transfer can happen: phase STREAM and OUT_VALID = OUT_READY = 1 (R170). -/
def canTransfer (s : State) : Bool := decide (s.phase = .stream) && s.out.valid && s.outReady

/-- `Emit(K, OUT_DATA); K <- K + 1` (R170, R171); OUT_VALID falls. -/
def emitByte (s : State) : State :=
  { s with
    sinkLog := { offset := s.k.toNat, data := s.out.data, last := s.out.last } :: s.sinkLog
    k := s.k + 1
    out := { s.out with valid := false } }

/-- After the transfer (R171): complete at the end of the file; else OUT_VALID may stay raised with the next byte
(`hold`, log entry 11). -/
def afterTransfer (hold : Bool) (s : State) : Host.Outcome State Fault Refusal :=
  if s.k = s.layout.fileSize then .next (complete s)
  else if hold then driveByte s
  else .next s

/-- A transfer, if it can happen; else nothing moves (R170). -/
def transferMove (hold : Bool) (s : State) : Host.Outcome State Fault Refusal :=
  if canTransfer s then afterTransfer hold (emitByte s) else .next s

end Sys2Proof.Machine
end

