-- ==== Sys2Proof/Machine/Engine.lean ====
section
/-! DEFINITION. The engine's step (30_encoding R96, 10_state R40), the moves of all agents (20_memory R74) and which
one comes next. -/

namespace Sys2Proof.Machine

/-- The step of phase EXEC (R96): decode LC.word, then run the command, or end it with IllegalCommand. -/
def runCommand (s : State) : Host.Outcome State Fault Refusal :=
  match decode s.lc.word with
  | .ok i => exec i s
  | .error _ => .next (raiseError .illegalCommand s)

/-- The engine's step, by phase (R40). -/
def engineMove (s : State) : Host.Outcome State Fault Refusal :=
  match s.phase with
  | .idle => .next s
  | .exec => runCommand s
  | .stream => raiseValid s

/-- One atomic move (R74). While RST is asserted the block holds its reset state (R230): the engine does not step and
nothing is transferred; a host access is not performed. -/
def applyMove (m : Move) (s : State) : Host.Outcome State Fault Refusal :=
  match m with
  | .host => .next (hostMove s)
  | .engine => if s.rst then .next s else engineMove s
  | .transfer hold => if s.rst then .next s else transferMove hold s
  | .sink r => .next { s with outReady := r }
  | .rst asserted => .next (if asserted then holdReset s else releaseReset s)

/-- Who moves when the schedule says nothing more (log entry 1): the block when it can (R250), else the host. -/
def defaultMove (s : State) : Move :=
  if s.rst then .host
  else match s.phase with
    | .idle => .host
    | .exec => .engine
    | .stream =>
      if s.out.valid then (if s.outReady then .transfer true else .host) else .engine

/-- The next move: the schedule's oldest, or the default. -/
def nextMove (s : State) : Move :=
  match s.sched with
  | m :: _ => m
  | [] => defaultMove s

/-- What a step does beside the move: the schedule moves on, and a new free value is drawn. -/
def advance (s : State) : State := { s with sched := s.sched.tail, draws := s.draws + 1 }

/-- One step of the whole system. -/
def systemStep (s : State) : Host.Outcome State Fault Refusal := applyMove (nextMove s) (advance s)

/-- A command word as the engine's next step finds it: issued and accepted (R95), whatever ran before, with RST
released and the engine to move (log entry 9). -/
def placeCommand (v : Word) (s : State) : State :=
  { issueAccepted v s with out := { s.out with valid := false }, rst := false, sched := .engine :: s.sched }

end Sys2Proof.Machine
end

