-- ==== Sys2Proof/Machine/Step.lean ====
section
/-! DEFINITION. The step function, and how a command word is placed for it. -/

namespace Sys2Proof.Machine

/-- One atomic step of the system: host access, engine step, stream transfer, or a change of an input pin (R74). -/
def step (s : State) : Host.Outcome State Fault Refusal := Sys2Proof.Machine.systemStep s

/-- The state in which the very next step runs the command word w (R95, R96; log entry 9). -/
def State.withFetchWord (s : State) (nbits w : Nat) : State :=
  Sys2Proof.Machine.placeCommand (BitVec.ofNat 32 (w % 2 ^ nbits)) s

end Sys2Proof.Machine
end

