-- ==== Sys2Proof/Safety.lean ====
section
/-! DEFINITION. The terms claims use: the machine's invariant, the file as one byte sequence, and what a step does to
the things a claim is about. -/

namespace Sys2Proof.Machine

/-! ### The invariant -/

/-- R35: with no canvas, ALPHA, CUR_WIDTH, CUR_HEIGHT and the five layout registers are 0. -/
abbrev State.NoCanvas (s : State) : Prop :=
  s.alpha = false ∧ s.curWidth = 0 ∧ s.curHeight = 0 ∧ s.layout = Layout.none

/-- R33, R35: the dimensions of a canvas are in range and the layout registers are the functions of them. -/
abbrev State.CanvasLegal (s : State) : Prop :=
  (1 ≤ s.curWidth.toNat ∧ s.curWidth.toNat ≤ s.params.wMax) ∧
  (1 ≤ s.curHeight.toNat ∧ s.curHeight.toNat ≤ s.params.hMax) ∧
  s.layout = layoutOf s.curWidth.toNat s.curHeight.toNat s.alpha

/-- R33, R35: the canvas and layout registers, with and without a canvas. -/
abbrev State.CanvasInv (s : State) : Prop :=
  (s.configured = true → s.CanvasLegal) ∧ (s.configured = false → s.NoCanvas)

/-- R37: the pixel store has its canonical form and lists only entries of the W_MAX × H_MAX array. -/
abbrev State.StoreInv (s : State) : Prop :=
  PixStore.WF s.pix ∧ ∀ e ∈ s.pix, pixCol e.1 < s.params.wMax ∧ pixRow e.1 < s.params.hMax

/-- R39: on a 24-bit canvas every entry has a = 255. -/
abbrev State.OpaqueInv (s : State) : Prop :=
  s.configured = true → s.alpha = false →
    ∀ y < s.curHeight.toNat, ∀ x < s.curWidth.toNat, (pixRead s x y).a = 255

/-- R41: LC.op is the opcode field of LC.word. R241: while BUSY = 1, ERR reads 0. -/
abbrev State.IssueInv (s : State) : Prop :=
  s.lc.op = s.lc.word.extractLsb' 0 4 ∧ (s.phase ≠ .idle → s.err = .ok)

/-- R40, R42, R43, R172: phase STREAM is a SERIALIZE of a canvas, its cursor inside the file, its N the count. -/
abbrev State.StreamInv (s : State) : Prop :=
  s.phase = .stream →
    s.configured = true ∧ s.lc.word = encode .serialize ∧ s.k.toNat < s.layout.fileSize.toNat ∧
    s.n.toNat = uniqueCount s

/-- R45, R170: OUT_VALID is raised only in phase STREAM, with the byte at the cursor. -/
abbrev State.PortInv (s : State) : Prop :=
  s.out.valid = true →
    s.phase = .stream ∧ fileByte s s.k.toNat = some s.out.data ∧
    s.out.last = decide (s.k.toNat + 1 = s.layout.fileSize.toNat)

/-- R230: while RST is asserted every piece of the block's state holds its reset value; where R46 says
"unspecified", the model's own (log entries 3, 5, 6, 7). -/
abbrev State.ResetInv (s : State) : Prop := s.rst = true → s = holdReset s

/-- The machine's invariant. -/
abbrev State.Inv (s : State) : Prop :=
  s.params.legal = true ∧ s.CanvasInv ∧ s.StoreInv ∧ s.OpaqueInv ∧ s.IssueInv ∧ s.StreamInv ∧ s.PortInv ∧
  s.ResetInv

/-- The values R46 gives (its "unspecified" ones left out). -/
abbrev State.AtReset (s : State) : Prop :=
  s.busy = false ∧ s.configured = false ∧ s.alpha = false ∧ s.ovr = false ∧ s.err = .ok ∧
  s.regs = { w := 0, h := 0, x := 0, y := 0, r := 0, g := 0, b := 0, a := 0x000000FF } ∧
  s.result = 0 ∧ s.curWidth = 0 ∧ s.curHeight = 0 ∧
  s.layout = { bytesPP := 0, stride := 0, hdrSize := 0, pixOffset := 0, fileSize := 0 } ∧
  s.phase = .idle ∧ s.out.valid = false

/-! ### The operands as the rules word them -/

/-- `1 ≤ w ≤ W_MAX` and `1 ≤ h ≤ H_MAX` of the latched signed operands (R92, R110). -/
abbrev State.DimsOk (s : State) : Prop :=
  (1 ≤ s.lc.ops.w.toInt ∧ s.lc.ops.w.toInt ≤ s.params.wMax) ∧
  (1 ≤ s.lc.ops.h.toInt ∧ s.lc.ops.h.toInt ≤ s.params.hMax)

/-- `0 ≤ x < CUR_WIDTH` and `0 ≤ y < CUR_HEIGHT` of the latched signed operands (R92, R133). -/
abbrev State.AccessOk (s : State) : Prop :=
  (0 ≤ s.lc.ops.x.toInt ∧ s.lc.ops.x.toInt < s.curWidth.toNat) ∧
  (0 ≤ s.lc.ops.y.toInt ∧ s.lc.ops.y.toInt < s.curHeight.toNat)

/-- The next step is a host write of v to address a, out of reset, with `rest` of the program after it (R68, R99). -/
abbrev State.HostWrites (s : State) (a : BusAddr) (v : Word) (rest : List Stmt) : Prop :=
  nextMove s = .host ∧ s.rst = false ∧ ∃ st, s.program = st :: rest ∧ st.encode = .write a v

/-- The engine's next step runs a command: it is the engine's turn, in phase EXEC, out of reset (R40, R96). -/
abbrev State.RunsCommand (s : State) : Prop :=
  nextMove s = .engine ∧ s.phase = .exec ∧ s.rst = false

/-- The next step is the completion of a successful CONFIGURE with this ALPHA bit (R116). -/
abbrev State.ConfiguresWith (s : State) (al : Bool) : Prop :=
  s.RunsCommand ∧ decode s.lc.word = .ok (.configure al) ∧ s.DimsOk

/-- The next step is the completion of a successful GET_PIXEL (R140). -/
abbrev State.GetsPixel (s : State) : Prop :=
  s.RunsCommand ∧ decode s.lc.word = .ok .getPixel ∧ s.configured = true ∧ s.AccessOk

/-- The next step is a transfer (R170). -/
abbrev State.Transfers (s : State) : Prop :=
  (∃ hold, nextMove s = .transfer hold) ∧ s.rst = false ∧ s.phase = .stream ∧ s.out.valid = true ∧
  s.outReady = true

/-- The next step may change entry (x, y): a reset, a CONFIGURE, or a SET_PIXEL at (x, y) (R141). -/
def State.Disturbs (s : State) (x y : Nat) : Prop :=
  nextMove s = .rst true ∨
  (s.RunsCommand ∧
    ((∃ al, decode s.lc.word = .ok (.configure al)) ∨
     (decode s.lc.word = .ok .setPixel ∧ s.lc.ops.x.toInt = x ∧ s.lc.ops.y.toInt = y)))

/-! ### The file as one sequence -/

/-- The bytes of one pixel in the file: B, G, R, and A when the canvas has alpha (R65). -/
def pixelBytes (al : Bool) (p : Pixel) : List Byte := if al then [p.b, p.g, p.r, p.a] else [p.b, p.g, p.r]

/-- Row y: its pixels in increasing x, then zero bytes up to the stride (R159). -/
def rowBytes (s : State) (y : Nat) : List Byte :=
  ((List.range s.curWidth.toNat).flatMap fun x => pixelBytes s.alpha (pixRead s x y))
    ++ List.replicate (s.layout.stride.toNat - s.curWidth.toNat * s.layout.bytesPP.toNat) 0

/-- PixelData: the rows from top to bottom (R159). -/
def pixelData (s : State) : List Byte := (List.range s.curHeight.toNat).flatMap fun y => rowBytes s y

/-- `File = FileHeader ++ DIBBase ++ (MaskBlock if al = 1 else []) ++ PixelData` (R150). -/
def fileList (s : State) : List Byte := fileHeader s ++ dibBase s ++ maskBlock s ++ pixelData s

/-- The transfers that deliver a file: each byte at its offset, OUT_LAST on the last one only (R62, R170). -/
def fileTransfers (s : State) : List Transfer :=
  (fileList s).zipIdx.map fun e =>
    { offset := e.2, data := e.1, last := decide (e.2 + 1 = s.layout.fileSize.toNat) }

/-- R62, R170: in phase STREAM the sink's last K transfers are the first K of the file. -/
abbrev State.TakenIsPrefix (s : State) : Prop :=
  s.phase = .stream → (s.sinkLog.take s.k.toNat).reverse = (fileTransfers s).take s.k.toNat

/-- Four bytes of the file at offset k, read as a little-endian number (R64). -/
def fileLE32 (s : State) (k : Nat) : Option Nat :=
  match fileByte s k, fileByte s (k + 1), fileByte s (k + 2), fileByte s (k + 3) with
  | some a, some b, some c, some d =>
    some (a.toNat + 2 ^ 8 * b.toNat + 2 ^ 16 * c.toNat + 2 ^ 24 * d.toNat)
  | _, _, _, _ => none

/-- Two bytes of the file at offset k, read as a little-endian number (R64). -/
def fileLE16 (s : State) (k : Nat) : Option Nat :=
  match fileByte s k, fileByte s (k + 1) with
  | some a, some b => some (a.toNat + 2 ^ 8 * b.toNat)
  | _, _ => none

/-- Four bytes of the file at offset k, read as a big-endian number (R64). -/
def fileBE32 (s : State) (k : Nat) : Option Nat :=
  match fileByte s k, fileByte s (k + 1), fileByte s (k + 2), fileByte s (k + 3) with
  | some a, some b, some c, some d =>
    some (2 ^ 24 * a.toNat + 2 ^ 16 * b.toNat + 2 ^ 8 * c.toNat + d.toNat)
  | _, _, _, _ => none

/-- The colours of the canvas as a set (R160). -/
def canvasColours (s : State) : Finset (Byte × Byte × Byte × Byte) :=
  ((Finset.range s.curWidth.toNat) ×ˢ (Finset.range s.curHeight.toNat)).image fun c =>
    ((pixRead s c.1 c.2).r, (pixRead s c.1 c.2).g, (pixRead s c.1 c.2).b, (pixRead s c.1 c.2).a)

/-! ### Unseen entries -/

/-- Two states alike but for the pixel store, whose canvas entries agree (R38). -/
def SeenAlike (s t : State) : Prop :=
  t = { s with pix := t.pix } ∧ PixStore.WF s.pix ∧ PixStore.WF t.pix ∧
  (s.configured = true →
    ∀ y < s.curHeight.toNat, ∀ x < s.curWidth.toNat, pixRead s x y = pixRead t x y)

/-- A run of a host program is over: the program is done and PHASE = IDLE (R248). -/
abbrev State.RunOver (s : State) : Prop := s.program = [] ∧ s.phase = .idle

end Sys2Proof.Machine
end

