-- ==== Sys2Proof/Certificates/Slice0/Obligations.lean ====
section
/-! DEFINITION. The statements for the provers, each from the numbered rules of spec/. -/

open Sys2Proof Sys2Proof.Machine

/-! ### Encoding and decoding -/

/-- R90: the legal command words, by their fields and one by one; every other word's command ends with
IllegalCommand. -/
def Obligations.LegalWordsAreTheFiveForms : Prop :=
  ∀ v : Word,
    ((∃ i, decode v = .ok i) ↔
      (v.extractLsb' 0 4 = 1 ∨ v.extractLsb' 0 4 = 2 ∨ v.extractLsb' 0 4 = 3 ∨ v.extractLsb' 0 4 = 4) ∧
      v.extractLsb' 4 4 = 0 ∧ v.extractLsb' 9 23 = 0 ∧ (v.extractLsb' 8 1 = 0 ∨ v.extractLsb' 0 4 = 1)) ∧
    ((∃ i, decode v = .ok i) ↔ v = 0x00000001 ∨ v = 0x00000101 ∨ v = 0x00000002 ∨ v = 0x00000003 ∨ v = 0x00000004) ∧
    ((¬ ∃ i, decode v = .ok i) → ∀ s : State, s.RunsCommand → s.lc.word = v →
      step s = .next { advance s with err := .illegalCommand, phase := .idle })

/-- Decode and encode agree in both directions: a word has one meaning, and it is the command it encodes. -/
def Obligations.DecodeIsInverseOfEncode : Prop :=
  ∀ (v : Word) (i : Instr), decode v = .ok i ↔ v = encode i

/-- The words of opcode_table.json, written out, and eight illegal words of R97 and of the vectors 2.1, each refused.
Which reason a word is refused for, and the order of the reasons when several hold (0x10 has both a reserved opcode and
a nonzero RSV0), are the model's choice (log entry 21): the spec says only that the word is illegal. -/
def Obligations.TableWordsDecode : Prop :=
  (decode 0x00000001 = .ok (.configure false) ∧ decode 0x00000101 = .ok (.configure true) ∧
    decode 0x00000002 = .ok .setPixel ∧ decode 0x00000003 = .ok .getPixel ∧ decode 0x00000004 = .ok .serialize) ∧
  (decode 0x00000000 = .error .reservedOpcode ∧ decode 0x00000005 = .error .reservedOpcode ∧
    decode 0x0000000F = .error .reservedOpcode ∧ decode 0x00000010 = .error .reservedOpcode ∧
    decode 0x00000011 = .error .rsv0NotZero ∧ decode 0x00000102 = .error .alphaNotAllowed ∧
    decode 0x00000201 = .error .rsv1NotZero ∧ decode 0x80000001 = .error .rsv1NotZero)

/-- R99, R100: the host's statements are these bus transactions, and SETPIX without alpha writes 255 to A_IN. -/
def Obligations.StatementsAreBusTransactions : Prop :=
  (∀ (r : Reg) (v : Int), Stmt.encode (.wr r.offset v) = .write r.offset (BitVec.ofInt 32 v)) ∧
  (∀ r : Reg, Stmt.encode (.rd r.offset) = .read r.offset) ∧
  Stmt.encode .configure = .write 0x00 0x00000001 ∧ Stmt.encode .configureA = .write 0x00 0x00000101 ∧
  Stmt.encode .setPixel = .write 0x00 0x00000002 ∧ Stmt.encode .getPixel = .write 0x00 0x00000003 ∧
  Stmt.encode .serialize = .write 0x00 0x00000004 ∧ Stmt.encode .clrOvr = .write 0x04 0x00000008 ∧
  (∀ x y r g b : Int, (Pseudo.setpix x y r g b).expand = (Pseudo.setpixA x y r g b 255).expand) ∧
  (∀ (w h : Int) (al : Bool), (Pseudo.canvas w h al).expand =
    [.wr 0x08 w, .wr 0x0C h, if al then .configureA else .configure, .wait]) ∧
  (∀ x y r g b a : Int, (Pseudo.setpixA x y r g b a).expand =
    [.wr 0x10 x, .wr 0x14 y, .wr 0x18 r, .wr 0x1C g, .wr 0x20 b, .wr 0x24 a, .setPixel, .wait]) ∧
  (∀ x y : Int, (Pseudo.getpix x y).expand = [.wr 0x10 x, .wr 0x14 y, .getPixel, .wait, .rd 0x28]) ∧
  Pseudo.save.expand = [.serialize, .wait] ∧
  (∀ r : Reg, regAt r.offset = some r)

/-! ### The step -/

/-- A step runs the command that LC.word decodes to, on the state with the schedule moved on and a free value drawn;
a placed command word is run by the very next step. The schedule, the drawn value and the placing are the model's (log
entries 1, 8, 9). -/
def Obligations.StepRunsDecodedCommand : Prop :=
  (∀ (s : State) (i : Instr), s.RunsCommand → decode s.lc.word = .ok i → step s = exec i (advance s)) ∧
  (∀ (s : State) (i : Instr), step (s.withFetchWord 32 (encode i).toNat) =
    exec i { s with
      lc := { op := (encode i).extractLsb' 0 4, word := encode i, ops := s.regs }
      err := .ok, phase := .exec, rst := false, out := { s.out with valid := false }, draws := s.draws + 1 })

/-- R95: an issue attempt, in one step with the bus write: dropped with OVR set while BUSY, else LC is latched from
the operand registers, ERR cleared and PHASE set to EXEC. -/
def Obligations.CmdWriteIssuesOrOverruns : Prop :=
  ∀ (s : State) (v : Int) (rest : List Stmt),
    nextMove s = .host → s.rst = false → s.program = .wr Reg.cmd.offset v :: rest →
    (s.busy = true → step s = .next { advance s with program := rest, ovr := true }) ∧
    (s.busy = false → step s = .next { advance s with
      program := rest
      lc := { op := (u32 v).extractLsb' 0 4, word := u32 v,
              ops := { w := s.regs.w, h := s.regs.h, x := s.regs.x, y := s.regs.y,
                       r := s.regs.r, g := s.regs.g, b := s.regs.b, a := s.regs.a } }
      err := .ok
      phase := .exec })

/-- R68, R95, R99: the step of every host statement that writes (WR, the five command statements, CLROVR) performs that
one access, at whatever address, and moves on in the program. -/
def Obligations.HostWritePerformsItsAccess : Prop :=
  ∀ (s : State) (a : BusAddr) (v : Word) (st : Stmt) (rest : List Stmt),
    nextMove s = .host → s.rst = false → s.program = st :: rest → st.encode = .write a v →
    step s = .next (busWrite { advance s with program := rest } a v)

/-- R231: PHASE leaves IDLE only by a host write to the slot of CMD. -/
def Obligations.OnlyCmdWriteStartsCommand : Prop :=
  ∀ s t : State, step s = .next t → s.phase = .idle → t.phase ≠ .idle →
    nextMove s = .host ∧ s.rst = false ∧ t.phase = .exec ∧
    ∃ st rest a v, s.program = st :: rest ∧ st.encode = .write a v ∧ a.toNat < 4 ∧ t.lc.word = v

/-- R248: when the host program is over, PHASE is IDLE and nothing is scheduled (log entry 1), a step changes nothing
but the model's own counter of free values (log entry 8). -/
def Obligations.RunOverStandsStill : Prop :=
  ∀ s : State, s.RunOver → s.sched = [] → step s = .next { s with draws := s.draws + 1 }

/-! ### The host register space -/

/-- R60, R67: the low address bits are ignored; offsets 0x48 to 0xFC read 0 and ignore writes. -/
def Obligations.SlotAddressing : Prop :=
  (∀ (s : State) (a b : BusAddr), a.toNat / 4 = b.toNat / 4 →
    busRead s a = busRead s b ∧ ∀ v, busWrite s a v = busWrite s b v) ∧
  (∀ (s : State) (a : BusAddr), 0x48 ≤ a.toNat → busRead s a = 0 ∧ ∀ v, busWrite s a v = s) ∧
  (∀ s : State, busRead s 0x00 = 0)

/-- R29, R30, R22, R41: an operand register reads back the last value written; no other register and no other state
moves; each of the eight, by its literal offset, is the operand that issue latches under its name. -/
def Obligations.OperandRegistersReadBack : Prop :=
  (∀ (s : State) (r : Reg) (v : Word),
    r ∈ [Reg.widthIn, .heightIn, .xIn, .yIn, .rIn, .gIn, .bIn, .aIn] →
    busRead (busWrite s r.offset v) r.offset = v ∧
    (∀ q : Reg, q ≠ r → busRead (busWrite s r.offset v) q.offset = busRead s q.offset) ∧
    busWrite s r.offset v = { s with regs := (busWrite s r.offset v).regs }) ∧
  (∀ s : State,
    busRead s 0x08 = s.regs.w ∧ busRead s 0x0C = s.regs.h ∧ busRead s 0x10 = s.regs.x ∧ busRead s 0x14 = s.regs.y ∧
    busRead s 0x18 = s.regs.r ∧ busRead s 0x1C = s.regs.g ∧ busRead s 0x20 = s.regs.b ∧ busRead s 0x24 = s.regs.a) ∧
  (∀ (s : State) (v : Word),
    busWrite s 0x08 v = { s with regs := { s.regs with w := v } } ∧
    busWrite s 0x0C v = { s with regs := { s.regs with h := v } } ∧
    busWrite s 0x10 v = { s with regs := { s.regs with x := v } } ∧
    busWrite s 0x14 v = { s with regs := { s.regs with y := v } } ∧
    busWrite s 0x18 v = { s with regs := { s.regs with r := v } } ∧
    busWrite s 0x1C v = { s with regs := { s.regs with g := v } } ∧
    busWrite s 0x20 v = { s with regs := { s.regs with b := v } } ∧
    busWrite s 0x24 v = { s with regs := { s.regs with a := v } })

/-- R22, R32, R33, R34: a host write to a read-only register is ignored, and each, by its literal offset, reads as the
state it shows. -/
def Obligations.ReadOnlyRegistersIgnoreWrites : Prop :=
  (∀ (s : State) (r : Reg) (v : Word),
    r ∈ [Reg.result, .curWidth, .curHeight, .bytesPP, .stride, .hdrSize, .pixOffset, .fileSize] →
    busWrite s r.offset v = s) ∧
  (∀ s : State,
    busRead s 0x28 = s.result ∧ busRead s 0x2C = s.curWidth ∧ busRead s 0x30 = s.curHeight ∧
    busRead s 0x34 = s.layout.bytesPP ∧ busRead s 0x38 = s.layout.stride ∧ busRead s 0x3C = s.layout.hdrSize ∧
    busRead s 0x40 = s.layout.pixOffset ∧ busRead s 0x44 = s.layout.fileSize)

/-- R24, R25, R26, R27, R28, R201: the bits of STATUS; codes 5 to 15 are never there. -/
def Obligations.StatusBits : Prop :=
  ∀ s : State,
    (busRead s 0x04).getLsbD 0 = decide (s.phase ≠ .idle) ∧
    (busRead s 0x04).getLsbD 1 = s.configured ∧
    (busRead s 0x04).getLsbD 2 = s.alpha ∧
    (busRead s 0x04).getLsbD 3 = s.ovr ∧
    ((busRead s 0x04).extractLsb' 4 4).toNat =
      (match s.err with
        | .ok => 0 | .invalidDimension => 1 | .outOfBounds => 2 | .noCanvas => 3 | .illegalCommand => 4) ∧
    (busRead s 0x04).toNat < 2 ^ 8

/-- R26: STATUS.OVR is sticky: set by a CMD write while BUSY, cleared by a STATUS write with bit 3 only, never by the
engine or a transfer; over every step, whoever moves, it changes in these two ways or by a reset only. -/
def Obligations.OvrIsSticky : Prop :=
  (∀ (s : State) (v : Word), s.busy = true → (busWrite s 0x00 v).ovr = true) ∧
  (∀ (s : State) (v : Word), v.getLsbD 3 = true → busWrite s 0x04 v = { s with ovr := false }) ∧
  (∀ (s : State) (v : Word), v.getLsbD 3 = false → busWrite s 0x04 v = s) ∧
  (∀ (s t : State) (m : Move), m = .engine ∨ (∃ hold, m = .transfer hold) →
    applyMove m s = .next t → t.ovr = s.ovr) ∧
  (∀ s t : State, step s = .next t → nextMove s ≠ .rst true → t.ovr ≠ s.ovr →
    ∃ a v rest, s.HostWrites a v rest ∧
      ((t.ovr = true ∧ a.toNat < 4 ∧ s.busy = true) ∨
       (t.ovr = false ∧ 4 ≤ a.toNat ∧ a.toNat < 8 ∧ v.getLsbD 3 = true))) ∧
  (∀ s t : State, step s = .next t → nextMove s = .rst true → t.ovr = false) ∧
  State.reset.ovr = false

/-- R28, R36, R205: over every step, whoever moves, STATUS.ERR changes only by an accepted issue (to 0), by the
completion of a command (to its code: a command run in phase EXEC, or the last transfer of a SERIALIZE, to 0) or by a
reset (to 0); a host write elsewhere than to CMD, STATUS among them, and a dropped CMD write leave it. -/
def Obligations.ErrChangesByIssueCompletionOrReset : Prop :=
  (∀ s t : State, step s = .next t → t.err ≠ s.err →
    (s.phase = .idle ∧ t.phase = .exec ∧ t.err = .ok ∧ ∃ a v rest, s.HostWrites a v rest ∧ a.toNat < 4) ∨
    (s.RunsCommand ∧ t.phase = .idle) ∨
    (s.Transfers ∧ s.k + 1 = s.layout.fileSize ∧ t.phase = .idle ∧ t.err = .ok) ∨
    (nextMove s = .rst true ∧ t.err = .ok)) ∧
  (∀ (s : State) (a : BusAddr) (v : Word), 4 ≤ a.toNat ∨ s.busy = true → (busWrite s a v).err = s.err) ∧
  (∀ (s : State) (a : BusAddr) (v : Word), a.toNat < 4 → s.busy = false → (busWrite s a v).err = .ok) ∧
  State.reset.err = .ok

/-- R69: a host read changes no register; it only returns its value. -/
def Obligations.HostReadHasNoSideEffect : Prop :=
  ∀ (s : State) (a : BusAddr) (rest : List Stmt),
    nextMove s = .host → s.rst = false → s.program = .rd a :: rest →
    step s = .next { advance s with program := rest, busLog := { addr := a, data := busRead s a } :: s.busLog }

/-- R99: WAIT reads STATUS, and ends exactly when the value read shows BUSY = 0. -/
def Obligations.WaitPollsStatus : Prop :=
  ∀ (s : State) (rest : List Stmt),
    nextMove s = .host → s.rst = false → s.program = .wait :: rest →
    step s = .next { advance s with
      program := if s.phase = .idle then rest else s.program
      busLog := { addr := 0x04, data := busRead s 0x04 } :: s.busLog }

/-! ### Arithmetic of the layout and of the channels -/

/-- R118: the stride laws. -/
def Obligations.StrideLaws : Prop :=
  ∀ w : Nat, 1 ≤ w → ∀ al : Bool,
    stride w al % 4 = 0 ∧ w * bpp al ≤ stride w al ∧ stride w al - w * bpp al ≤ 3 ∧
    (al = true → stride w al - w * bpp al = 0 ∧ stride w al = 4 * w) ∧
    (al = false → stride w al - w * bpp al = w % 4)

/-- R35, R119, R121: the layout registers of a canvas are exact in 32-bit unsigned arithmetic: the register-level
formulas, with AND and NOT on words, give the values of the integer formulas. -/
def Obligations.LayoutRegistersAreExact : Prop :=
  ∀ s : State, s.params.legal = true → s.configured = true → s.CanvasInv →
    s.layout.bytesPP.toNat = (if s.alpha then 4 else 3) ∧
    s.layout.stride = (s.curWidth * s.layout.bytesPP + 3) &&& ~~~(3 : Word) ∧
    s.layout.stride.toNat = (s.curWidth.toNat * s.layout.bytesPP.toNat + 3) / 4 * 4 ∧
    s.layout.hdrSize.toNat = (if s.alpha then 56 else 40) ∧
    s.layout.pixOffset.toNat = 14 + s.layout.hdrSize.toNat ∧
    s.layout.fileSize = s.layout.pixOffset + s.curHeight * s.layout.stride ∧
    s.layout.fileSize.toNat = s.layout.pixOffset.toNat + s.curHeight.toNat * s.layout.stride.toNat

/-- R132: the laws of clamp8. -/
def Obligations.ClampLaws : Prop :=
  (∀ v : Int, 0 ≤ v → v ≤ 255 → ((clamp8 v).toNat : Int) = v) ∧
  (∀ v w : Int, v ≤ w → (clamp8 v).toNat ≤ (clamp8 w).toNat) ∧
  (∀ v : Int, clamp8 ((clamp8 v).toNat : Int) = clamp8 v) ∧
  clamp8 (-5) = 0 ∧ clamp8 300 = 255 ∧ clamp8 9999 = 255 ∧ clamp8 (-2 ^ 31) = 0 ∧ clamp8 (2 ^ 31 - 1) = 255 ∧
  clamp8 256 = 255 ∧ clamp8 (-1) = 0

/-- R131 (for rationals): clamping the value the host converts is the source's clamp and truncation, in either
order. -/
def Obligations.HostConversionCommutesWithClamp : Prop :=
  ∀ q : Rat,
    ((clamp8 (hostConvert q).toInt).toNat : Int) = max 0 (min 255 (Int.tdiv q.num q.den)) ∧
    ((clamp8 (hostConvert q).toInt).toNat : Int) =
      Int.tdiv (max (0 : Rat) (min 255 q)).num (max (0 : Rat) (min 255 q)).den

/-- R63: the byte sequences, by the numbers they spell. -/
def Obligations.ByteSequences : Prop :=
  (∀ v : BitVec 16, (le16 v).map BitVec.toNat = [v.toNat % 2 ^ 8, v.toNat / 2 ^ 8]) ∧
  (∀ v : Word, (le32 v).map BitVec.toNat =
    [v.toNat % 2 ^ 8, v.toNat / 2 ^ 8 % 2 ^ 8, v.toNat / 2 ^ 16 % 2 ^ 8, v.toNat / 2 ^ 24]) ∧
  (∀ v : Word, (be32 v).map BitVec.toNat =
    [v.toNat / 2 ^ 24, v.toNat / 2 ^ 16 % 2 ^ 8, v.toNat / 2 ^ 8 % 2 ^ 8, v.toNat % 2 ^ 8])

/-! ### CONFIGURE -/

/-- R116: with the dimensions in range CONFIGURE completes: the canvas and layout registers get their values, every
canvas entry the default pixel, no entry off the canvas and no other state moves. -/
def Obligations.ConfigureConstructsCanvas : Prop :=
  ∀ (s : State) (al : Bool), s.params.legal = true → s.DimsOk →
    ∃ t, exec (.configure al) s = .next t ∧
      (t.curWidth = s.lc.ops.w ∧ t.curHeight = s.lc.ops.h ∧ t.alpha = al ∧ t.configured = true) ∧
      (t.layout.bytesPP.toNat = (if al then 4 else 3) ∧
        t.layout.stride.toNat = (s.lc.ops.w.toNat * (if al then 4 else 3) + 3) / 4 * 4 ∧
        t.layout.hdrSize.toNat = (if al then 56 else 40) ∧
        t.layout.pixOffset.toNat = (if al then 70 else 54) ∧
        t.layout.fileSize.toNat =
          (if al then 70 else 54) + s.lc.ops.h.toNat * ((s.lc.ops.w.toNat * (if al then 4 else 3) + 3) / 4 * 4)) ∧
      (∀ x y : Nat, x < s.lc.ops.w.toNat → y < s.lc.ops.h.toNat →
        pixRead t x y = { r := 0, g := 0, b := 0, a := 255 }) ∧
      (∀ a : Nat, ¬ (pixCol a < s.lc.ops.w.toNat ∧ pixRow a < s.lc.ops.h.toNat) →
        pixGet t.pix a = pixGet s.pix a) ∧
      t = { s with curWidth := t.curWidth, curHeight := t.curHeight, alpha := t.alpha, configured := true,
                   layout := t.layout, pix := t.pix, err := .ok, phase := .idle }

/-- R110, R116, R200: a dimension out of range ends CONFIGURE with InvalidDimension and changes nothing else; a
width or height with bit 31 set is out of range (R93). -/
def Obligations.ConfigureRejectsBadDimensions : Prop :=
  (∀ (s : State) (al : Bool),
    s.lc.ops.w.toInt ≤ 0 ∨ s.lc.ops.h.toInt ≤ 0 ∨ (s.params.wMax : Int) < s.lc.ops.w.toInt ∨
      (s.params.hMax : Int) < s.lc.ops.h.toInt →
    exec (.configure al) s = .next { s with err := .invalidDimension, phase := .idle }) ∧
  (∀ (s : State) (al : Bool), 2 ^ 31 ≤ s.lc.ops.w.toNat ∨ 2 ^ 31 ≤ s.lc.ops.h.toNat →
    exec (.configure al) s = .next { s with err := .invalidDimension, phase := .idle })

/-! ### SET_PIXEL and GET_PIXEL -/

/-- R134, R135: on a canvas, in bounds, SET_PIXEL completes: the entry is the clamped channels, alpha 255 on a 24-bit
canvas; no other entry and no other state moves. -/
def Obligations.SetPixelStoresClampedPixel : Prop :=
  ∀ s : State, PixStore.WF s.pix → s.configured = true → s.AccessOk →
    ∃ t, exec .setPixel s = .next t ∧
      (((pixRead t (opX s).toNat (opY s).toNat).r.toNat : Int) = max 0 (min 255 s.lc.ops.r.toInt) ∧
        ((pixRead t (opX s).toNat (opY s).toNat).g.toNat : Int) = max 0 (min 255 s.lc.ops.g.toInt) ∧
        ((pixRead t (opX s).toNat (opY s).toNat).b.toNat : Int) = max 0 (min 255 s.lc.ops.b.toInt) ∧
        ((pixRead t (opX s).toNat (opY s).toNat).a.toNat : Int) =
          if s.alpha then max 0 (min 255 s.lc.ops.a.toInt) else 255) ∧
      (∀ a : Nat, a ≠ pixAddr (opX s).toNat (opY s).toNat → pixGet t.pix a = pixGet s.pix a) ∧
      t = { s with pix := t.pix, err := .ok, phase := .idle }

/-- R140: on a canvas, in bounds, GET_PIXEL completes: RESULT is {a, b, g, r} of the entry, alpha 255 on a 24-bit
canvas; nothing else moves, the pixel store least of all. -/
def Obligations.GetPixelReportsEntry : Prop :=
  ∀ s : State, s.configured = true → s.AccessOk →
    ∃ t, exec .getPixel s = .next t ∧
      t.result.extractLsb' 0 8 = (pixRead s (opX s).toNat (opY s).toNat).r ∧
      t.result.extractLsb' 8 8 = (pixRead s (opX s).toNat (opY s).toNat).g ∧
      t.result.extractLsb' 16 8 = (pixRead s (opX s).toNat (opY s).toNat).b ∧
      t.result.extractLsb' 24 8 = (if s.alpha then (pixRead s (opX s).toNat (opY s).toNat).a else 255) ∧
      t = { s with result := t.result, err := .ok, phase := .idle }

/-- R133, R200: out of bounds, both accessors end with OutOfBounds and change nothing else; a coordinate with bit 31
set is out of bounds when the dimensions are below 2^31 (R93). -/
def Obligations.PixelAccessOutOfBounds : Prop :=
  (∀ s : State, s.configured = true →
    s.lc.ops.x.toInt < 0 ∨ (s.curWidth.toNat : Int) ≤ s.lc.ops.x.toInt ∨
      s.lc.ops.y.toInt < 0 ∨ (s.curHeight.toNat : Int) ≤ s.lc.ops.y.toInt →
    exec .setPixel s = .next { s with err := .outOfBounds, phase := .idle } ∧
    exec .getPixel s = .next { s with err := .outOfBounds, phase := .idle }) ∧
  (∀ s : State, s.configured = true → 2 ^ 31 ≤ s.lc.ops.x.toNat ∨ 2 ^ 31 ≤ s.lc.ops.y.toNat →
    exec .setPixel s = .next { s with err := .outOfBounds, phase := .idle } ∧
    exec .getPixel s = .next { s with err := .outOfBounds, phase := .idle })

/-- R203: SET_PIXEL, GET_PIXEL and SERIALIZE first test STATUS.CONFIGURED and raise NoCanvas if it is 0; CONFIGURE
does not make this test. -/
def Obligations.CanvasIsCheckedFirst : Prop :=
  (∀ (s : State) (i : Instr), i = .setPixel ∨ i = .getPixel ∨ i = .serialize → s.configured = false →
    exec i s = .next { s with err := .noCanvas, phase := .idle }) ∧
  (∀ (s t : State) (al : Bool), exec (.configure al) s = .next t → t.err ≠ .noCanvas) ∧
  (∀ (s t : State) (al : Bool), exec (.configure al) s = .next t →
    ∃ u, exec (.configure al) { s with configured := !s.configured } = .next u ∧ u.err = t.err)

/-- R141: what SET_PIXEL stored is what GET_PIXEL reports, after any run in which no step is a reset, a CONFIGURE, or
a SET_PIXEL at the same place. -/
def Obligations.SetThenGetRoundTrip : Prop :=
  ∀ (s t u : State) (n : Nat),
    PixStore.WF s.pix → s.configured = true → s.AccessOk → exec .setPixel s = .next t →
    (∀ m < n, ∀ v, core.run m t = .next v → ¬ v.Disturbs (opX s).toNat (opY s).toNat) →
    core.run n t = .next u →
    ∀ v : State, v = { u with lc := v.lc } → v.lc.ops.x = s.lc.ops.x → v.lc.ops.y = s.lc.ops.y →
      ∃ g, exec .getPixel v = .next g ∧
        ((g.result.extractLsb' 0 8).toNat : Int) = max 0 (min 255 s.lc.ops.r.toInt) ∧
        ((g.result.extractLsb' 8 8).toNat : Int) = max 0 (min 255 s.lc.ops.g.toInt) ∧
        ((g.result.extractLsb' 16 8).toNat : Int) = max 0 (min 255 s.lc.ops.b.toInt) ∧
        ((g.result.extractLsb' 24 8).toNat : Int) =
          if s.alpha then max 0 (min 255 s.lc.ops.a.toInt) else 255

/-! ### SERIALIZE and the file -/

/-- R171, R172: on a canvas SERIALIZE completes its first step: N is the number of distinct tuples among the canvas
entries, K is 0, PHASE is STREAM; nothing else moves. -/
def Obligations.SerializeStartsStream : Prop :=
  ∀ s : State, s.configured = true →
    exec .serialize s = .next { s with
      n := BitVec.ofNat 32 (canvasColours s).card, k := 0, phase := .stream }

/-- R160: the count is the cardinality of the set of colours; on a canvas it is in [1, w × h] and fits in 32 bits; on
a 24-bit canvas whose entries are opaque it is the number of distinct (r, g, b). -/
def Obligations.UniqueCountIsCardinality : Prop :=
  (∀ s : State, uniqueCount s = (canvasColours s).card) ∧
  (∀ s : State, s.params.legal = true → s.configured = true → s.CanvasInv →
    1 ≤ uniqueCount s ∧ uniqueCount s ≤ s.curWidth.toNat * s.curHeight.toNat ∧ uniqueCount s < 2 ^ 32) ∧
  (∀ s : State, s.configured = true → s.alpha = false → s.OpaqueInv →
    uniqueCount s = (((Finset.range s.curWidth.toNat) ×ˢ (Finset.range s.curHeight.toNat)).image fun c =>
      ((pixRead s c.1 c.2).r, (pixRead s c.1 c.2).g, (pixRead s c.1 c.2).b)).card)

/-- R151, R152, R153, R154: the file header of every canvas. -/
def Obligations.FileHeaderBytes : Prop :=
  ∀ s : State, s.params.legal = true → s.configured = true → s.CanvasInv →
    fileByte s 0 = some 0x42 ∧ fileByte s 1 = some 0x4D ∧
    fileLE32 s 2 = some s.layout.fileSize.toNat ∧
    fileByte s 6 = some 0 ∧ fileByte s 7 = some 0 ∧ fileByte s 8 = some 0 ∧ fileByte s 9 = some 0 ∧
    fileByte s 10 = some (if s.alpha then 70 else 54) ∧ fileByte s 11 = some 0 ∧ fileByte s 12 = some 0 ∧
    fileByte s 13 = some 0 ∧ fileLE32 s 10 = some s.layout.pixOffset.toNat

/-- R155, R156, R157: the DIB header of every canvas, field by field; the height field is −h in two's complement. -/
def Obligations.DibHeaderFields : Prop :=
  ∀ s : State, s.params.legal = true → s.configured = true → s.CanvasInv →
    fileLE32 s 14 = some (if s.alpha then 56 else 40) ∧
    fileLE32 s 18 = some s.curWidth.toNat ∧
    fileLE32 s 22 = some (2 ^ 32 - s.curHeight.toNat) ∧
    fileLE16 s 26 = some 1 ∧
    fileLE16 s 28 = some (if s.alpha then 32 else 24) ∧
    fileLE32 s 30 = some 0 ∧ fileLE32 s 34 = some 0 ∧
    fileLE32 s 38 = some 2835 ∧ fileLE32 s 42 = some 2835 ∧
    fileLE32 s 46 = some s.n.toNat ∧ fileLE32 s 50 = some 0

/-- R158: the channel-mask block of a 32-bit canvas, big-endian; a 24-bit canvas has pixel data there instead. -/
def Obligations.ChannelMaskBlock : Prop :=
  (∀ s : State, s.params.legal = true → s.configured = true → s.CanvasInv → s.alpha = true →
    fileBE32 s 54 = some 0x0000FF00 ∧ fileBE32 s 58 = some 0x00FF0000 ∧
    fileBE32 s 62 = some 0xFF000000 ∧ fileBE32 s 66 = some 0x000000FF) ∧
  (∀ s : State, s.params.legal = true → s.configured = true → s.CanvasInv → s.alpha = false →
    fileByte s 54 = some (pixRead s 0 0).b ∧ fileByte s 55 = some (pixRead s 0 0).g ∧
    fileByte s 56 = some (pixRead s 0 0).r)

/-- R173: the header properties the rules give, for every canvas. -/
def Obligations.HeaderProperties : Prop :=
  ∀ s : State, s.params.legal = true → s.configured = true → s.CanvasInv →
    fileByte s 0 = some 0x42 ∧ fileByte s 1 = some 0x4D ∧
    fileLE32 s 2 = some s.layout.fileSize.toNat ∧
    fileLE32 s 10 = some s.layout.pixOffset.toNat ∧
    (∃ m, fileLE32 s 22 = some m ∧ (BitVec.ofNat 32 m).toInt = -(s.curHeight.toNat : Int)) ∧
    (s.alpha = true →
      (List.range 16).map (fun j => fileByte s (54 + j)) =
        [some 0x00, some 0x00, some 0xFF, some 0x00, some 0x00, some 0xFF, some 0x00, some 0x00,
         some 0xFF, some 0x00, some 0x00, some 0x00, some 0x00, some 0x00, some 0x00, some 0xFF]) ∧
    (s.alpha = false → fileLE32 s 14 = some 40)

/-- R150, R159, R161: the offset formula gives the bytes of the concatenation FileHeader, DIBBase, MaskBlock, rows;
the length is FILE_SIZE; past it there is no byte. -/
def Obligations.FileByteIndexesTheFile : Prop :=
  ∀ s : State, s.params.legal = true → s.configured = true → s.CanvasInv →
    (fileList s).length = s.layout.fileSize.toNat ∧
    (fileHeader s).length = 14 ∧ (dibBase s ++ maskBlock s).length = s.layout.hdrSize.toNat ∧
    (fileHeader s ++ dibBase s ++ maskBlock s).length = s.layout.pixOffset.toNat ∧
    ∀ k : Nat, fileByte s k = (fileList s)[k]?

/-- R170: once OUT_VALID is 1 it stays 1 with OUT_DATA and OUT_LAST unchanged until the transfer (or a reset). -/
def Obligations.StreamHoldsUntilTransfer : Prop :=
  ∀ s t : State, s.out.valid = true → s.phase = .stream → step s = .next t → ¬ s.Transfers → nextMove s ≠ .rst true →
    t.out = s.out ∧ t.k = s.k ∧ t.phase = .stream ∧ t.sinkLog = s.sinkLog ∧
    t.outDataPin = s.outDataPin ∧ t.outLastPin = s.outLastPin

/-- R170, R171: a transfer emits FileByte(K) as offset K with OUT_LAST at the last byte only, and K advances; the last
transfer completes the command. -/
def Obligations.TransferEmitsByteAtCursor : Prop :=
  ∀ s : State, s.Inv → s.Transfers →
    ∃ t b, step s = .next t ∧ fileByte s s.k.toNat = some b ∧
      t.sinkLog =
        { offset := s.k.toNat, data := b, last := decide (s.k.toNat + 1 = s.layout.fileSize.toNat) } :: s.sinkLog ∧
      t.k.toNat = s.k.toNat + 1 ∧
      (s.k.toNat + 1 = s.layout.fileSize.toNat → t.phase = .idle ∧ t.err = .ok ∧ t.out.valid = false) ∧
      (s.k.toNat + 1 ≠ s.layout.fileSize.toNat → t.phase = .stream ∧
        (t.out.valid = true → fileByte s (s.k.toNat + 1) = some t.out.data))

/-- R171: in phase STREAM the engine and the transfers change STATUS.ERR, PHASE, K and the output port only. -/
def Obligations.StreamingTouchesOnlyTheStream : Prop :=
  ∀ (s t : State) (m : Move), s.phase = .stream → m = .engine ∨ (∃ hold, m = .transfer hold) →
    applyMove m s = .next t →
    t = { s with err := t.err, phase := t.phase, k := t.k, out := t.out, sinkLog := t.sinkLog }

/-- R62, R170, R171: whatever the interleaving, the sink's transfers of a running SERIALIZE are the first K of the
file in order, and when it completes they are the whole file. -/
def Obligations.SinkTakesTheFileInOrder : Prop :=
  ∀ s t : State, s.Inv → s.TakenIsPrefix → step s = .next t →
    t.TakenIsPrefix ∧
    (s.phase = .stream → t.phase = .idle → nextMove s ≠ .rst true →
      (t.sinkLog.take s.layout.fileSize.toNat).reverse = fileTransfers s)

/-- R171, R242: a SERIALIZE on a canvas with a ready sink and nothing else scheduled emits the whole file, once, from
offset 0, and completes with ERR = 0; every pixel, canvas, layout and operand register and RESULT is as before. The
number of steps is the model's (log entries 1, 11), not the spec's. -/
def Obligations.SerializeDeliversWholeFile : Prop :=
  ∀ s : State, s.Inv → s.configured = true → s.phase = .exec → s.lc.word = encode .serialize →
    s.rst = false → s.sched = [] → s.outReady = true →
    ∃ t : State, core.run (s.layout.fileSize.toNat + 2) s = .next t ∧
      t.sinkLog.reverse = s.sinkLog.reverse ++ fileTransfers { s with n := BitVec.ofNat 32 (uniqueCount s) } ∧
      t.phase = .idle ∧ t.err = .ok ∧ t.out.valid = false ∧
      t = { s with err := t.err, phase := t.phase, k := t.k, n := t.n, out := t.out, sinkLog := t.sinkLog,
                   draws := t.draws }

/-- R242: while the sink takes nothing and no reset comes, a SERIALIZE stays BUSY for good and emits nothing. -/
def Obligations.StalledSinkStaysBusy : Prop :=
  ∀ (n : Nat) (s t : State), s.phase = .stream → s.outReady = false →
    (∀ m ∈ s.sched, m ≠ .sink true ∧ m ≠ .rst true) → core.run n s = .next t →
    t.busy = true ∧ t.phase = .stream ∧ t.k = s.k ∧ t.sinkLog = s.sinkLog ∧
    ∀ v, busWrite t 0x00 v = { t with ovr := true }

/-! ### Errors -/

/-- R204: the one outcome of a command that is run, in the order IllegalCommand, NoCanvas, then InvalidDimension or
OutOfBounds. -/
def Obligations.ErrorPriority : Prop :=
  ∀ s : State, s.RunsCommand → s.err = .ok →
    ∃ t, step s = .next t ∧ t.err =
      if s.lc.word = 0x00000001 ∨ s.lc.word = 0x00000101 then
        (if s.DimsOk then .ok else .invalidDimension)
      else if s.lc.word = 0x00000002 ∨ s.lc.word = 0x00000003 then
        (if s.configured = false then .noCanvas else if s.AccessOk then .ok else .outOfBounds)
      else if s.lc.word = 0x00000004 then
        (if s.configured = false then .noCanvas else .ok)
      else .illegalCommand

/-- R200: an error is all or nothing: ERR gets the code, PHASE becomes IDLE, and the command makes no other change. -/
def Obligations.ErrorsChangeNothingElse : Prop :=
  ∀ s t : State, s.RunsCommand → s.err = .ok → step s = .next t → t.err ≠ .ok →
    t = { advance s with err := t.err, phase := .idle }

/-! ### What no step changes, and what only some steps change -/

/-- R25: CONFIGURED becomes 1 by a successful CONFIGURE and 0 by reset only; host writes to STATUS never move it. -/
def Obligations.ConfiguredIsSetByConfigureOnly : Prop :=
  (∀ s t : State, step s = .next t → nextMove s ≠ .rst true →
    (t.configured = true ↔ s.configured = true ∨ ∃ al, s.ConfiguresWith al)) ∧
  (∀ s t : State, step s = .next t → nextMove s = .rst true → t.configured = false) ∧
  (∀ (s : State) (a : BusAddr) (v : Word), (busWrite s a v).configured = s.configured) ∧
  State.reset.configured = false

/-- R33, R34, R27: between a reset and the next, only a successful CONFIGURE writes the canvas and layout
registers. -/
def Obligations.CanvasRegistersAreConfiguresAlone : Prop :=
  ∀ s t : State, step s = .next t → nextMove s ≠ .rst true → (¬ ∃ al, s.ConfiguresWith al) →
    t.curWidth = s.curWidth ∧ t.curHeight = s.curHeight ∧ t.alpha = s.alpha ∧ t.layout = s.layout

/-- R32: RESULT is written by a successful GET_PIXEL only, whole; every value can be its content, in a state that meets
the invariant; reset gives 0. -/
def Obligations.ResultIsGetPixelsAlone : Prop :=
  (∀ s t : State, step s = .next t → nextMove s ≠ .rst true → ¬ s.GetsPixel → t.result = s.result) ∧
  (∀ s t : State, step s = .next t → s.GetsPixel →
    t.result = packPixel (reported s (pixRead s (opX s).toNat (opY s).toNat))) ∧
  (∀ (s : State) (a : BusAddr) (v : Word), (busWrite s a v).result = s.result) ∧
  (∀ v : Word, ∃ s t : State, s.Inv ∧ s.GetsPixel ∧ step s = .next t ∧ t.result = v) ∧
  State.reset.result = 0

/-- R29, R30: no command writes an operand register; only a host write to its slot, or reset, does. -/
def Obligations.OperandRegistersAreTheHosts : Prop :=
  ∀ s t : State, step s = .next t → t.regs ≠ s.regs → nextMove s ≠ .rst true →
    nextMove s = .host ∧ s.rst = false ∧
    ∃ a v rest, s.program = .wr a v :: rest ∧ 0x08 ≤ a.toNat ∧ a.toNat < 0x28

/-- R41, R243: host writes to operand registers while BUSY do not affect the running command: the block's moves
commute with them. -/
def Obligations.RunningCommandIgnoresOperandWrites : Prop :=
  ∀ (s t : State) (m : Move) (a : BusAddr) (v : Word),
    s.phase ≠ .idle → m = .engine ∨ (∃ hold, m = .transfer hold) → 0x08 ≤ a.toNat →
    applyMove m s = .next t → applyMove m (busWrite s a v) = .next (busWrite t a v)

/-- R37, R61, R94: a step changes the pixel store only by a successful CONFIGURE (the canvas entries), a SET_PIXEL in
bounds (its one entry) or a reset; every other entry reads as before. -/
def Obligations.PixelStoreIsCommandsAlone : Prop :=
  ∀ s t : State, step s = .next t → nextMove s ≠ .rst true →
    ∀ a : Nat, pixGet t.pix a ≠ pixGet s.pix a →
      (∃ al, s.ConfiguresWith al ∧ pixCol a < s.lc.ops.w.toNat ∧ pixRow a < s.lc.ops.h.toNat) ∨
      (s.RunsCommand ∧ decode s.lc.word = .ok .setPixel ∧ s.configured = true ∧ s.AccessOk ∧
        a = pixAddr (opX s).toNat (opY s).toNat)

/-- R43: K moves by exactly 1 per transferred byte, starts at 0 with a SERIALIZE, and never wraps. -/
def Obligations.CursorAdvancesByOne : Prop :=
  ∀ s t : State, s.Inv → step s = .next t → nextMove s ≠ .rst true → t.k ≠ s.k →
    (s.Transfers ∧ t.k.toNat = s.k.toNat + 1 ∧ t.k.toNat ≤ s.layout.fileSize.toNat) ∨
    (s.RunsCommand ∧ decode s.lc.word = .ok .serialize ∧ t.k = 0)

/-- The model's choice (log entry 2): W_MAX and H_MAX stand in State, and no step changes them. -/
def Obligations.ParametersNeverChange : Prop :=
  ∀ s t : State, step s = .next t → t.params = s.params

/-! ### Reset -/

/-- R46: after reset every piece of state that the table gives a value has it, from every state and in State.reset. -/
def Obligations.ResetValues : Prop :=
  State.reset.AtReset ∧
  ∀ s : State, nextMove s = .rst true → ∃ t, step s = .next t ∧ t.AtReset ∧ t.rst = true ∧
    ∀ r : Reg, busRead t r.offset = if r = .aIn then 0x000000FF else 0

/-- R230: while RST is asserted the state holds its reset values and host accesses are not performed; a reset ends a
SERIALIZE with nothing more emitted; after release the block accepts a CMD write. -/
def Obligations.ResetHolds : Prop :=
  (∀ s : State, s.rst = true → s.AtReset → nextMove s ≠ .rst false →
    ∃ t, step s = .next t ∧ t.AtReset ∧ t.rst = true ∧ t.sinkLog = s.sinkLog) ∧
  (∀ s : State, nextMove s = .rst true → ∃ t, step s = .next t ∧ t.phase = .idle ∧ t.sinkLog = s.sinkLog) ∧
  (∀ s : State, s.rst = true → s.AtReset → nextMove s = .rst false →
    ∃ t, step s = .next t ∧ t.AtReset ∧ t.rst = false ∧ ∀ v, (busWrite t 0x00 v).phase = .exec)

/-! ### Invariants -/

/-- The invariant holds at reset. -/
def Obligations.ResetMeetsInvariant : Prop := State.reset.Inv ∧ State.reset.TakenIsPrefix

/-- R35: with a canvas the layout registers are the functions of (CUR_WIDTH, CUR_HEIGHT, ALPHA); without one all of
them are 0. It holds at reset and every step keeps it. -/
def Obligations.LayoutFollowsCanvas : Prop :=
  State.reset.CanvasInv ∧ ∀ s t : State, s.CanvasInv → step s = .next t → t.CanvasInv

/-- R39: on a 24-bit canvas every canvas entry has a = 255. It holds at reset and every step keeps it. -/
def Obligations.OpaqueOn24BitCanvas : Prop :=
  State.reset.OpaqueInv ∧
  ∀ s t : State, PixStore.WF s.pix → s.OpaqueInv → step s = .next t → t.OpaqueInv

/-- Every step from a state that meets the invariant gives one that meets it. Its last part, the state while RST is
asserted, holds the model's own values where R46 says "unspecified" (log entries 3, 5, 6, 7). -/
def Obligations.StepKeepsInvariant : Prop :=
  ∀ s t : State, s.Inv → step s = .next t → t.Inv

/-- R206: the block takes no trap and its bus never faults: from a state that meets the invariant every step answers a
next state. -/
def Obligations.StepAlwaysAnswers : Prop :=
  ∀ s : State, s.Inv → ∃ t, step s = .next t

/-- R38, R37: entries of the pixel store that no canvas covers are never observed: two states alike but for them make
the same step and stay alike. -/
def Obligations.UnseenEntriesAreNeverObserved : Prop :=
  ∀ s t s' : State, SeenAlike s t → s.params.legal = true → s.CanvasInv →
    step s = .next s' → ∃ t', step t = .next t' ∧ SeenAlike s' t'
end

