-- ==== Sys2Proof/Laws/State.lean ====
section
/-! SUPPORT. For each named update of State, what each field is after it: one lemma per field, true by rfl, so that no
proof unfolds a record update. -/

namespace Sys2Proof.Machine

/-! ### raiseError -/

@[simp] theorem raiseError_params (c : ErrCode) (s : State) : (raiseError c s).params = s.params := rfl
@[simp] theorem raiseError_configured (c : ErrCode) (s : State) : (raiseError c s).configured = s.configured := rfl
@[simp] theorem raiseError_alpha (c : ErrCode) (s : State) : (raiseError c s).alpha = s.alpha := rfl
@[simp] theorem raiseError_ovr (c : ErrCode) (s : State) : (raiseError c s).ovr = s.ovr := rfl
@[simp] theorem raiseError_err (c : ErrCode) (s : State) : (raiseError c s).err = c := rfl
@[simp] theorem raiseError_regs (c : ErrCode) (s : State) : (raiseError c s).regs = s.regs := rfl
@[simp] theorem raiseError_result (c : ErrCode) (s : State) : (raiseError c s).result = s.result := rfl
@[simp] theorem raiseError_curWidth (c : ErrCode) (s : State) : (raiseError c s).curWidth = s.curWidth := rfl
@[simp] theorem raiseError_curHeight (c : ErrCode) (s : State) : (raiseError c s).curHeight = s.curHeight := rfl
@[simp] theorem raiseError_layout (c : ErrCode) (s : State) : (raiseError c s).layout = s.layout := rfl
@[simp] theorem raiseError_pix (c : ErrCode) (s : State) : (raiseError c s).pix = s.pix := rfl
@[simp] theorem raiseError_phase (c : ErrCode) (s : State) : (raiseError c s).phase = .idle := rfl
@[simp] theorem raiseError_lc (c : ErrCode) (s : State) : (raiseError c s).lc = s.lc := rfl
@[simp] theorem raiseError_k (c : ErrCode) (s : State) : (raiseError c s).k = s.k := rfl
@[simp] theorem raiseError_n (c : ErrCode) (s : State) : (raiseError c s).n = s.n := rfl
@[simp] theorem raiseError_out (c : ErrCode) (s : State) : (raiseError c s).out = s.out := rfl
@[simp] theorem raiseError_outReady (c : ErrCode) (s : State) : (raiseError c s).outReady = s.outReady := rfl
@[simp] theorem raiseError_rst (c : ErrCode) (s : State) : (raiseError c s).rst = s.rst := rfl
@[simp] theorem raiseError_program (c : ErrCode) (s : State) : (raiseError c s).program = s.program := rfl
@[simp] theorem raiseError_sched (c : ErrCode) (s : State) : (raiseError c s).sched = s.sched := rfl
@[simp] theorem raiseError_busLog (c : ErrCode) (s : State) : (raiseError c s).busLog = s.busLog := rfl
@[simp] theorem raiseError_sinkLog (c : ErrCode) (s : State) : (raiseError c s).sinkLog = s.sinkLog := rfl
@[simp] theorem raiseError_draws (c : ErrCode) (s : State) : (raiseError c s).draws = s.draws := rfl

/-! ### complete -/

@[simp] theorem complete_params (s : State) : (complete s).params = s.params := rfl
@[simp] theorem complete_configured (s : State) : (complete s).configured = s.configured := rfl
@[simp] theorem complete_alpha (s : State) : (complete s).alpha = s.alpha := rfl
@[simp] theorem complete_ovr (s : State) : (complete s).ovr = s.ovr := rfl
@[simp] theorem complete_err (s : State) : (complete s).err = .ok := rfl
@[simp] theorem complete_regs (s : State) : (complete s).regs = s.regs := rfl
@[simp] theorem complete_result (s : State) : (complete s).result = s.result := rfl
@[simp] theorem complete_curWidth (s : State) : (complete s).curWidth = s.curWidth := rfl
@[simp] theorem complete_curHeight (s : State) : (complete s).curHeight = s.curHeight := rfl
@[simp] theorem complete_layout (s : State) : (complete s).layout = s.layout := rfl
@[simp] theorem complete_pix (s : State) : (complete s).pix = s.pix := rfl
@[simp] theorem complete_phase (s : State) : (complete s).phase = .idle := rfl
@[simp] theorem complete_lc (s : State) : (complete s).lc = s.lc := rfl
@[simp] theorem complete_k (s : State) : (complete s).k = s.k := rfl
@[simp] theorem complete_n (s : State) : (complete s).n = s.n := rfl
@[simp] theorem complete_out (s : State) : (complete s).out = s.out := rfl
@[simp] theorem complete_outReady (s : State) : (complete s).outReady = s.outReady := rfl
@[simp] theorem complete_rst (s : State) : (complete s).rst = s.rst := rfl
@[simp] theorem complete_program (s : State) : (complete s).program = s.program := rfl
@[simp] theorem complete_sched (s : State) : (complete s).sched = s.sched := rfl
@[simp] theorem complete_busLog (s : State) : (complete s).busLog = s.busLog := rfl
@[simp] theorem complete_sinkLog (s : State) : (complete s).sinkLog = s.sinkLog := rfl
@[simp] theorem complete_draws (s : State) : (complete s).draws = s.draws := rfl

/-! ### issueAccepted -/

@[simp] theorem issueAccepted_params (v : Word) (s : State) : (issueAccepted v s).params = s.params := rfl
@[simp] theorem issueAccepted_configured (v : Word) (s : State) : (issueAccepted v s).configured = s.configured := rfl
@[simp] theorem issueAccepted_alpha (v : Word) (s : State) : (issueAccepted v s).alpha = s.alpha := rfl
@[simp] theorem issueAccepted_ovr (v : Word) (s : State) : (issueAccepted v s).ovr = s.ovr := rfl
@[simp] theorem issueAccepted_err (v : Word) (s : State) : (issueAccepted v s).err = .ok := rfl
@[simp] theorem issueAccepted_regs (v : Word) (s : State) : (issueAccepted v s).regs = s.regs := rfl
@[simp] theorem issueAccepted_result (v : Word) (s : State) : (issueAccepted v s).result = s.result := rfl
@[simp] theorem issueAccepted_curWidth (v : Word) (s : State) : (issueAccepted v s).curWidth = s.curWidth := rfl
@[simp] theorem issueAccepted_curHeight (v : Word) (s : State) : (issueAccepted v s).curHeight = s.curHeight := rfl
@[simp] theorem issueAccepted_layout (v : Word) (s : State) : (issueAccepted v s).layout = s.layout := rfl
@[simp] theorem issueAccepted_pix (v : Word) (s : State) : (issueAccepted v s).pix = s.pix := rfl
@[simp] theorem issueAccepted_phase (v : Word) (s : State) : (issueAccepted v s).phase = .exec := rfl
@[simp] theorem issueAccepted_lc (v : Word) (s : State) : (issueAccepted v s).lc = { op := v.extractLsb' 0 4, word := v, ops := s.regs } := rfl
@[simp] theorem issueAccepted_k (v : Word) (s : State) : (issueAccepted v s).k = s.k := rfl
@[simp] theorem issueAccepted_n (v : Word) (s : State) : (issueAccepted v s).n = s.n := rfl
@[simp] theorem issueAccepted_out (v : Word) (s : State) : (issueAccepted v s).out = s.out := rfl
@[simp] theorem issueAccepted_outReady (v : Word) (s : State) : (issueAccepted v s).outReady = s.outReady := rfl
@[simp] theorem issueAccepted_rst (v : Word) (s : State) : (issueAccepted v s).rst = s.rst := rfl
@[simp] theorem issueAccepted_program (v : Word) (s : State) : (issueAccepted v s).program = s.program := rfl
@[simp] theorem issueAccepted_sched (v : Word) (s : State) : (issueAccepted v s).sched = s.sched := rfl
@[simp] theorem issueAccepted_busLog (v : Word) (s : State) : (issueAccepted v s).busLog = s.busLog := rfl
@[simp] theorem issueAccepted_sinkLog (v : Word) (s : State) : (issueAccepted v s).sinkLog = s.sinkLog := rfl
@[simp] theorem issueAccepted_draws (v : Word) (s : State) : (issueAccepted v s).draws = s.draws := rfl

/-! ### pixWrite -/

@[simp] theorem pixWrite_params (x y : Nat) (p : Pixel) (s : State) : (pixWrite x y p s).params = s.params := rfl
@[simp] theorem pixWrite_configured (x y : Nat) (p : Pixel) (s : State) : (pixWrite x y p s).configured = s.configured := rfl
@[simp] theorem pixWrite_alpha (x y : Nat) (p : Pixel) (s : State) : (pixWrite x y p s).alpha = s.alpha := rfl
@[simp] theorem pixWrite_ovr (x y : Nat) (p : Pixel) (s : State) : (pixWrite x y p s).ovr = s.ovr := rfl
@[simp] theorem pixWrite_err (x y : Nat) (p : Pixel) (s : State) : (pixWrite x y p s).err = s.err := rfl
@[simp] theorem pixWrite_regs (x y : Nat) (p : Pixel) (s : State) : (pixWrite x y p s).regs = s.regs := rfl
@[simp] theorem pixWrite_result (x y : Nat) (p : Pixel) (s : State) : (pixWrite x y p s).result = s.result := rfl
@[simp] theorem pixWrite_curWidth (x y : Nat) (p : Pixel) (s : State) : (pixWrite x y p s).curWidth = s.curWidth := rfl
@[simp] theorem pixWrite_curHeight (x y : Nat) (p : Pixel) (s : State) : (pixWrite x y p s).curHeight = s.curHeight := rfl
@[simp] theorem pixWrite_layout (x y : Nat) (p : Pixel) (s : State) : (pixWrite x y p s).layout = s.layout := rfl
@[simp] theorem pixWrite_pix (x y : Nat) (p : Pixel) (s : State) : (pixWrite x y p s).pix = pixPut s.pix (pixAddr x y) p := rfl
@[simp] theorem pixWrite_phase (x y : Nat) (p : Pixel) (s : State) : (pixWrite x y p s).phase = s.phase := rfl
@[simp] theorem pixWrite_lc (x y : Nat) (p : Pixel) (s : State) : (pixWrite x y p s).lc = s.lc := rfl
@[simp] theorem pixWrite_k (x y : Nat) (p : Pixel) (s : State) : (pixWrite x y p s).k = s.k := rfl
@[simp] theorem pixWrite_n (x y : Nat) (p : Pixel) (s : State) : (pixWrite x y p s).n = s.n := rfl
@[simp] theorem pixWrite_out (x y : Nat) (p : Pixel) (s : State) : (pixWrite x y p s).out = s.out := rfl
@[simp] theorem pixWrite_outReady (x y : Nat) (p : Pixel) (s : State) : (pixWrite x y p s).outReady = s.outReady := rfl
@[simp] theorem pixWrite_rst (x y : Nat) (p : Pixel) (s : State) : (pixWrite x y p s).rst = s.rst := rfl
@[simp] theorem pixWrite_program (x y : Nat) (p : Pixel) (s : State) : (pixWrite x y p s).program = s.program := rfl
@[simp] theorem pixWrite_sched (x y : Nat) (p : Pixel) (s : State) : (pixWrite x y p s).sched = s.sched := rfl
@[simp] theorem pixWrite_busLog (x y : Nat) (p : Pixel) (s : State) : (pixWrite x y p s).busLog = s.busLog := rfl
@[simp] theorem pixWrite_sinkLog (x y : Nat) (p : Pixel) (s : State) : (pixWrite x y p s).sinkLog = s.sinkLog := rfl
@[simp] theorem pixWrite_draws (x y : Nat) (p : Pixel) (s : State) : (pixWrite x y p s).draws = s.draws := rfl

/-! ### constructCanvas -/

@[simp] theorem constructCanvas_params (w h : Nat) (al : Bool) (s : State) : (constructCanvas w h al s).params = s.params := rfl
@[simp] theorem constructCanvas_configured (w h : Nat) (al : Bool) (s : State) : (constructCanvas w h al s).configured = true := rfl
@[simp] theorem constructCanvas_alpha (w h : Nat) (al : Bool) (s : State) : (constructCanvas w h al s).alpha = al := rfl
@[simp] theorem constructCanvas_ovr (w h : Nat) (al : Bool) (s : State) : (constructCanvas w h al s).ovr = s.ovr := rfl
@[simp] theorem constructCanvas_err (w h : Nat) (al : Bool) (s : State) : (constructCanvas w h al s).err = s.err := rfl
@[simp] theorem constructCanvas_regs (w h : Nat) (al : Bool) (s : State) : (constructCanvas w h al s).regs = s.regs := rfl
@[simp] theorem constructCanvas_result (w h : Nat) (al : Bool) (s : State) : (constructCanvas w h al s).result = s.result := rfl
@[simp] theorem constructCanvas_curWidth (w h : Nat) (al : Bool) (s : State) : (constructCanvas w h al s).curWidth = BitVec.ofNat 32 w := rfl
@[simp] theorem constructCanvas_curHeight (w h : Nat) (al : Bool) (s : State) : (constructCanvas w h al s).curHeight = BitVec.ofNat 32 h := rfl
@[simp] theorem constructCanvas_layout (w h : Nat) (al : Bool) (s : State) : (constructCanvas w h al s).layout = layoutOf w h al := rfl
@[simp] theorem constructCanvas_pix (w h : Nat) (al : Bool) (s : State) : (constructCanvas w h al s).pix = pixClear w h s.pix := rfl
@[simp] theorem constructCanvas_phase (w h : Nat) (al : Bool) (s : State) : (constructCanvas w h al s).phase = s.phase := rfl
@[simp] theorem constructCanvas_lc (w h : Nat) (al : Bool) (s : State) : (constructCanvas w h al s).lc = s.lc := rfl
@[simp] theorem constructCanvas_k (w h : Nat) (al : Bool) (s : State) : (constructCanvas w h al s).k = s.k := rfl
@[simp] theorem constructCanvas_n (w h : Nat) (al : Bool) (s : State) : (constructCanvas w h al s).n = s.n := rfl
@[simp] theorem constructCanvas_out (w h : Nat) (al : Bool) (s : State) : (constructCanvas w h al s).out = s.out := rfl
@[simp] theorem constructCanvas_outReady (w h : Nat) (al : Bool) (s : State) : (constructCanvas w h al s).outReady = s.outReady := rfl
@[simp] theorem constructCanvas_rst (w h : Nat) (al : Bool) (s : State) : (constructCanvas w h al s).rst = s.rst := rfl
@[simp] theorem constructCanvas_program (w h : Nat) (al : Bool) (s : State) : (constructCanvas w h al s).program = s.program := rfl
@[simp] theorem constructCanvas_sched (w h : Nat) (al : Bool) (s : State) : (constructCanvas w h al s).sched = s.sched := rfl
@[simp] theorem constructCanvas_busLog (w h : Nat) (al : Bool) (s : State) : (constructCanvas w h al s).busLog = s.busLog := rfl
@[simp] theorem constructCanvas_sinkLog (w h : Nat) (al : Bool) (s : State) : (constructCanvas w h al s).sinkLog = s.sinkLog := rfl
@[simp] theorem constructCanvas_draws (w h : Nat) (al : Bool) (s : State) : (constructCanvas w h al s).draws = s.draws := rfl

/-! ### startStream -/

@[simp] theorem startStream_params (s : State) : (startStream s).params = s.params := rfl
@[simp] theorem startStream_configured (s : State) : (startStream s).configured = s.configured := rfl
@[simp] theorem startStream_alpha (s : State) : (startStream s).alpha = s.alpha := rfl
@[simp] theorem startStream_ovr (s : State) : (startStream s).ovr = s.ovr := rfl
@[simp] theorem startStream_err (s : State) : (startStream s).err = s.err := rfl
@[simp] theorem startStream_regs (s : State) : (startStream s).regs = s.regs := rfl
@[simp] theorem startStream_result (s : State) : (startStream s).result = s.result := rfl
@[simp] theorem startStream_curWidth (s : State) : (startStream s).curWidth = s.curWidth := rfl
@[simp] theorem startStream_curHeight (s : State) : (startStream s).curHeight = s.curHeight := rfl
@[simp] theorem startStream_layout (s : State) : (startStream s).layout = s.layout := rfl
@[simp] theorem startStream_pix (s : State) : (startStream s).pix = s.pix := rfl
@[simp] theorem startStream_phase (s : State) : (startStream s).phase = .stream := rfl
@[simp] theorem startStream_lc (s : State) : (startStream s).lc = s.lc := rfl
@[simp] theorem startStream_k (s : State) : (startStream s).k = 0 := rfl
@[simp] theorem startStream_n (s : State) : (startStream s).n = BitVec.ofNat 32 (uniqueCount s) := rfl
@[simp] theorem startStream_out (s : State) : (startStream s).out = s.out := rfl
@[simp] theorem startStream_outReady (s : State) : (startStream s).outReady = s.outReady := rfl
@[simp] theorem startStream_rst (s : State) : (startStream s).rst = s.rst := rfl
@[simp] theorem startStream_program (s : State) : (startStream s).program = s.program := rfl
@[simp] theorem startStream_sched (s : State) : (startStream s).sched = s.sched := rfl
@[simp] theorem startStream_busLog (s : State) : (startStream s).busLog = s.busLog := rfl
@[simp] theorem startStream_sinkLog (s : State) : (startStream s).sinkLog = s.sinkLog := rfl
@[simp] theorem startStream_draws (s : State) : (startStream s).draws = s.draws := rfl

/-! ### emitByte -/

@[simp] theorem emitByte_params (s : State) : (emitByte s).params = s.params := rfl
@[simp] theorem emitByte_configured (s : State) : (emitByte s).configured = s.configured := rfl
@[simp] theorem emitByte_alpha (s : State) : (emitByte s).alpha = s.alpha := rfl
@[simp] theorem emitByte_ovr (s : State) : (emitByte s).ovr = s.ovr := rfl
@[simp] theorem emitByte_err (s : State) : (emitByte s).err = s.err := rfl
@[simp] theorem emitByte_regs (s : State) : (emitByte s).regs = s.regs := rfl
@[simp] theorem emitByte_result (s : State) : (emitByte s).result = s.result := rfl
@[simp] theorem emitByte_curWidth (s : State) : (emitByte s).curWidth = s.curWidth := rfl
@[simp] theorem emitByte_curHeight (s : State) : (emitByte s).curHeight = s.curHeight := rfl
@[simp] theorem emitByte_layout (s : State) : (emitByte s).layout = s.layout := rfl
@[simp] theorem emitByte_pix (s : State) : (emitByte s).pix = s.pix := rfl
@[simp] theorem emitByte_phase (s : State) : (emitByte s).phase = s.phase := rfl
@[simp] theorem emitByte_lc (s : State) : (emitByte s).lc = s.lc := rfl
@[simp] theorem emitByte_k (s : State) : (emitByte s).k = s.k + 1 := rfl
@[simp] theorem emitByte_n (s : State) : (emitByte s).n = s.n := rfl
@[simp] theorem emitByte_out (s : State) : (emitByte s).out = { s.out with valid := false } := rfl
@[simp] theorem emitByte_outReady (s : State) : (emitByte s).outReady = s.outReady := rfl
@[simp] theorem emitByte_rst (s : State) : (emitByte s).rst = s.rst := rfl
@[simp] theorem emitByte_program (s : State) : (emitByte s).program = s.program := rfl
@[simp] theorem emitByte_sched (s : State) : (emitByte s).sched = s.sched := rfl
@[simp] theorem emitByte_busLog (s : State) : (emitByte s).busLog = s.busLog := rfl
@[simp] theorem emitByte_sinkLog (s : State) : (emitByte s).sinkLog = { offset := s.k.toNat, data := s.out.data, last := s.out.last } :: s.sinkLog := rfl
@[simp] theorem emitByte_draws (s : State) : (emitByte s).draws = s.draws := rfl

/-! ### logRead -/

@[simp] theorem logRead_params (a : BusAddr) (v : Word) (s : State) : (logRead a v s).params = s.params := rfl
@[simp] theorem logRead_configured (a : BusAddr) (v : Word) (s : State) : (logRead a v s).configured = s.configured := rfl
@[simp] theorem logRead_alpha (a : BusAddr) (v : Word) (s : State) : (logRead a v s).alpha = s.alpha := rfl
@[simp] theorem logRead_ovr (a : BusAddr) (v : Word) (s : State) : (logRead a v s).ovr = s.ovr := rfl
@[simp] theorem logRead_err (a : BusAddr) (v : Word) (s : State) : (logRead a v s).err = s.err := rfl
@[simp] theorem logRead_regs (a : BusAddr) (v : Word) (s : State) : (logRead a v s).regs = s.regs := rfl
@[simp] theorem logRead_result (a : BusAddr) (v : Word) (s : State) : (logRead a v s).result = s.result := rfl
@[simp] theorem logRead_curWidth (a : BusAddr) (v : Word) (s : State) : (logRead a v s).curWidth = s.curWidth := rfl
@[simp] theorem logRead_curHeight (a : BusAddr) (v : Word) (s : State) : (logRead a v s).curHeight = s.curHeight := rfl
@[simp] theorem logRead_layout (a : BusAddr) (v : Word) (s : State) : (logRead a v s).layout = s.layout := rfl
@[simp] theorem logRead_pix (a : BusAddr) (v : Word) (s : State) : (logRead a v s).pix = s.pix := rfl
@[simp] theorem logRead_phase (a : BusAddr) (v : Word) (s : State) : (logRead a v s).phase = s.phase := rfl
@[simp] theorem logRead_lc (a : BusAddr) (v : Word) (s : State) : (logRead a v s).lc = s.lc := rfl
@[simp] theorem logRead_k (a : BusAddr) (v : Word) (s : State) : (logRead a v s).k = s.k := rfl
@[simp] theorem logRead_n (a : BusAddr) (v : Word) (s : State) : (logRead a v s).n = s.n := rfl
@[simp] theorem logRead_out (a : BusAddr) (v : Word) (s : State) : (logRead a v s).out = s.out := rfl
@[simp] theorem logRead_outReady (a : BusAddr) (v : Word) (s : State) : (logRead a v s).outReady = s.outReady := rfl
@[simp] theorem logRead_rst (a : BusAddr) (v : Word) (s : State) : (logRead a v s).rst = s.rst := rfl
@[simp] theorem logRead_program (a : BusAddr) (v : Word) (s : State) : (logRead a v s).program = s.program := rfl
@[simp] theorem logRead_sched (a : BusAddr) (v : Word) (s : State) : (logRead a v s).sched = s.sched := rfl
@[simp] theorem logRead_busLog (a : BusAddr) (v : Word) (s : State) : (logRead a v s).busLog = { addr := a, data := v } :: s.busLog := rfl
@[simp] theorem logRead_sinkLog (a : BusAddr) (v : Word) (s : State) : (logRead a v s).sinkLog = s.sinkLog := rfl
@[simp] theorem logRead_draws (a : BusAddr) (v : Word) (s : State) : (logRead a v s).draws = s.draws := rfl

/-! ### releaseReset -/

@[simp] theorem releaseReset_params (s : State) : (releaseReset s).params = s.params := rfl
@[simp] theorem releaseReset_configured (s : State) : (releaseReset s).configured = s.configured := rfl
@[simp] theorem releaseReset_alpha (s : State) : (releaseReset s).alpha = s.alpha := rfl
@[simp] theorem releaseReset_ovr (s : State) : (releaseReset s).ovr = s.ovr := rfl
@[simp] theorem releaseReset_err (s : State) : (releaseReset s).err = s.err := rfl
@[simp] theorem releaseReset_regs (s : State) : (releaseReset s).regs = s.regs := rfl
@[simp] theorem releaseReset_result (s : State) : (releaseReset s).result = s.result := rfl
@[simp] theorem releaseReset_curWidth (s : State) : (releaseReset s).curWidth = s.curWidth := rfl
@[simp] theorem releaseReset_curHeight (s : State) : (releaseReset s).curHeight = s.curHeight := rfl
@[simp] theorem releaseReset_layout (s : State) : (releaseReset s).layout = s.layout := rfl
@[simp] theorem releaseReset_pix (s : State) : (releaseReset s).pix = s.pix := rfl
@[simp] theorem releaseReset_phase (s : State) : (releaseReset s).phase = s.phase := rfl
@[simp] theorem releaseReset_lc (s : State) : (releaseReset s).lc = s.lc := rfl
@[simp] theorem releaseReset_k (s : State) : (releaseReset s).k = s.k := rfl
@[simp] theorem releaseReset_n (s : State) : (releaseReset s).n = s.n := rfl
@[simp] theorem releaseReset_out (s : State) : (releaseReset s).out = s.out := rfl
@[simp] theorem releaseReset_outReady (s : State) : (releaseReset s).outReady = s.outReady := rfl
@[simp] theorem releaseReset_rst (s : State) : (releaseReset s).rst = false := rfl
@[simp] theorem releaseReset_program (s : State) : (releaseReset s).program = s.program := rfl
@[simp] theorem releaseReset_sched (s : State) : (releaseReset s).sched = s.sched := rfl
@[simp] theorem releaseReset_busLog (s : State) : (releaseReset s).busLog = s.busLog := rfl
@[simp] theorem releaseReset_sinkLog (s : State) : (releaseReset s).sinkLog = s.sinkLog := rfl
@[simp] theorem releaseReset_draws (s : State) : (releaseReset s).draws = s.draws := rfl

/-! ### advance -/

@[simp] theorem advance_params (s : State) : (advance s).params = s.params := rfl
@[simp] theorem advance_configured (s : State) : (advance s).configured = s.configured := rfl
@[simp] theorem advance_alpha (s : State) : (advance s).alpha = s.alpha := rfl
@[simp] theorem advance_ovr (s : State) : (advance s).ovr = s.ovr := rfl
@[simp] theorem advance_err (s : State) : (advance s).err = s.err := rfl
@[simp] theorem advance_regs (s : State) : (advance s).regs = s.regs := rfl
@[simp] theorem advance_result (s : State) : (advance s).result = s.result := rfl
@[simp] theorem advance_curWidth (s : State) : (advance s).curWidth = s.curWidth := rfl
@[simp] theorem advance_curHeight (s : State) : (advance s).curHeight = s.curHeight := rfl
@[simp] theorem advance_layout (s : State) : (advance s).layout = s.layout := rfl
@[simp] theorem advance_pix (s : State) : (advance s).pix = s.pix := rfl
@[simp] theorem advance_phase (s : State) : (advance s).phase = s.phase := rfl
@[simp] theorem advance_lc (s : State) : (advance s).lc = s.lc := rfl
@[simp] theorem advance_k (s : State) : (advance s).k = s.k := rfl
@[simp] theorem advance_n (s : State) : (advance s).n = s.n := rfl
@[simp] theorem advance_out (s : State) : (advance s).out = s.out := rfl
@[simp] theorem advance_outReady (s : State) : (advance s).outReady = s.outReady := rfl
@[simp] theorem advance_rst (s : State) : (advance s).rst = s.rst := rfl
@[simp] theorem advance_program (s : State) : (advance s).program = s.program := rfl
@[simp] theorem advance_sched (s : State) : (advance s).sched = s.sched.tail := rfl
@[simp] theorem advance_busLog (s : State) : (advance s).busLog = s.busLog := rfl
@[simp] theorem advance_sinkLog (s : State) : (advance s).sinkLog = s.sinkLog := rfl
@[simp] theorem advance_draws (s : State) : (advance s).draws = s.draws + 1 := rfl

/-! ### holdReset -/

@[simp] theorem holdReset_params (s : State) : (holdReset s).params = s.params := rfl
@[simp] theorem holdReset_configured (s : State) : (holdReset s).configured = false := rfl
@[simp] theorem holdReset_alpha (s : State) : (holdReset s).alpha = false := rfl
@[simp] theorem holdReset_ovr (s : State) : (holdReset s).ovr = false := rfl
@[simp] theorem holdReset_err (s : State) : (holdReset s).err = .ok := rfl
@[simp] theorem holdReset_regs (s : State) : (holdReset s).regs = Operands.reset := rfl
@[simp] theorem holdReset_result (s : State) : (holdReset s).result = 0 := rfl
@[simp] theorem holdReset_curWidth (s : State) : (holdReset s).curWidth = 0 := rfl
@[simp] theorem holdReset_curHeight (s : State) : (holdReset s).curHeight = 0 := rfl
@[simp] theorem holdReset_layout (s : State) : (holdReset s).layout = Layout.none := rfl
@[simp] theorem holdReset_pix (s : State) : (holdReset s).pix = [] := rfl
@[simp] theorem holdReset_phase (s : State) : (holdReset s).phase = .idle := rfl
@[simp] theorem holdReset_lc (s : State) : (holdReset s).lc = Latched.reset := rfl
@[simp] theorem holdReset_k (s : State) : (holdReset s).k = 0 := rfl
@[simp] theorem holdReset_n (s : State) : (holdReset s).n = 0 := rfl
@[simp] theorem holdReset_out (s : State) : (holdReset s).out = OutPort.reset := rfl
@[simp] theorem holdReset_outReady (s : State) : (holdReset s).outReady = s.outReady := rfl
@[simp] theorem holdReset_rst (s : State) : (holdReset s).rst = true := rfl
@[simp] theorem holdReset_program (s : State) : (holdReset s).program = s.program := rfl
@[simp] theorem holdReset_sched (s : State) : (holdReset s).sched = s.sched := rfl
@[simp] theorem holdReset_busLog (s : State) : (holdReset s).busLog = s.busLog := rfl
@[simp] theorem holdReset_sinkLog (s : State) : (holdReset s).sinkLog = s.sinkLog := rfl
@[simp] theorem holdReset_draws (s : State) : (holdReset s).draws = s.draws := rfl

end Sys2Proof.Machine
end

