-- ==== Sys2Proof/Laws/Memory.lean ====
section
/-! SUPPORT. The laws of the pixel store: what reading gives after each operation, and that every operation keeps the
canonical form. -/

namespace Sys2Proof.Machine

/-! ### Entry numbers -/

theorem pixCol_pixAddr {x y : Nat} (hx : x < 2 ^ 32) : pixCol (pixAddr x y) = x := by
  simp only [pixCol, pixAddr]; omega

theorem pixRow_pixAddr {x y : Nat} (hx : x < 2 ^ 32) : pixRow (pixAddr x y) = y := by
  simp only [pixRow, pixAddr]; omega

theorem pixAddr_eq_iff {x y x' y' : Nat} (hx : x < 2 ^ 32) (hx' : x' < 2 ^ 32) :
    pixAddr x y = pixAddr x' y' ↔ x = x' ∧ y = y' := by
  simp only [pixAddr]; omega

theorem pixAddr_col_row (a : Nat) : pixAddr (pixCol a) (pixRow a) = a := by
  simp only [pixAddr, pixCol, pixRow]; omega

theorem onCanvas_pixAddr {w h x y : Nat} (hx : x < 2 ^ 32) :
    onCanvas w h (pixAddr x y) = (decide (x < w) && decide (y < h)) := by
  simp only [onCanvas, pixCol_pixAddr hx, pixRow_pixAddr hx]

/-! ### Reading -/

theorem pixGet_of_not_listed {m : PixStore} {a : Nat} (h : ∀ e ∈ m, e.1 ≠ a) : pixGet m a = unlistedPixel := by
  induction m with
  | nil => rfl
  | cons e m ih =>
    have h1 : e.1 ≠ a := h e (List.mem_cons_self ..)
    simp only [pixGet, h1, if_false]
    exact ih fun f hf => h f (List.mem_cons_of_mem _ hf)

theorem pixGet_pixCons_same {m : PixStore} {a : Nat} {p : Pixel} (h : ∀ e ∈ m, e.1 ≠ a) :
    pixGet (pixCons a p m) a = p := by
  by_cases hp : p = unlistedPixel
  · simp only [pixCons, hp, if_true]; exact pixGet_of_not_listed h
  · simp only [pixCons, hp, if_false, pixGet, if_true]

theorem pixGet_pixCons_other {m : PixStore} {a b : Nat} {p : Pixel} (h : b ≠ a) :
    pixGet (pixCons a p m) b = pixGet m b := by
  by_cases hp : p = unlistedPixel
  · simp only [pixCons, hp, if_true]
  · simp only [pixCons, hp, if_false, pixGet, if_neg (Ne.symm h)]

/-- Reading an entry after writing another (R70: no other entry is touched). -/
theorem pixGet_pixPut_other (m : PixStore) {a b : Nat} (p : Pixel) (h : b ≠ a) :
    pixGet (pixPut m a p) b = pixGet m b := by
  induction m with
  | nil => exact pixGet_pixCons_other h
  | cons e m ih =>
    obtain ⟨c, q⟩ := e
    simp only [pixPut]
    split
    · exact pixGet_pixCons_other h
    · split
      · next hca => subst hca; rw [pixGet_pixCons_other h]; simp only [pixGet, if_neg (Ne.symm h)]
      · simp only [pixGet, ih]

theorem PixStore.WF.tail {e : Nat × Pixel} {m : PixStore} (h : PixStore.WF (e :: m)) : PixStore.WF m :=
  ⟨(List.pairwise_cons.mp h.1).2, fun f hf => h.2 f (List.mem_cons_of_mem _ hf)⟩

/-- Reading an entry after writing it. -/
theorem pixGet_pixPut_same {m : PixStore} (hm : PixStore.WF m) (a : Nat) (p : Pixel) :
    pixGet (pixPut m a p) a = p := by
  induction m with
  | nil => exact pixGet_pixCons_same (by simp)
  | cons e m ih =>
    obtain ⟨c, q⟩ := e
    have hlt : ∀ f ∈ m, c < f.1 := (List.pairwise_cons.mp hm.1).1
    simp only [pixPut]
    split
    · next hac =>
      refine pixGet_pixCons_same fun f hf => ?_
      rcases List.mem_cons.mp hf with rfl | hf
      · exact Nat.ne_of_gt hac
      · have := hlt f hf; omega
    · split
      · next hca => exact pixGet_pixCons_same fun f hf => by have := hlt f hf; omega
      · next hca => simp only [pixGet, if_neg hca]; exact ih hm.tail

/-- After clearing the w × h canvas its entries are the default pixel (R116). -/
theorem pixGet_pixClear_on {w h a : Nat} (m : PixStore) (ha : onCanvas w h a = true) :
    pixGet (pixClear w h m) a = defaultPixel := by
  refine pixGet_of_not_listed fun e he hea => ?_
  have := (List.mem_filter.mp he).2
  simp only [hea, ha] at this
  exact absurd this (by decide)

/-- Clearing the w × h canvas leaves the other entries alone (R116). -/
theorem pixGet_pixClear_off {w h a : Nat} (m : PixStore) (ha : onCanvas w h a = false) :
    pixGet (pixClear w h m) a = pixGet m a := by
  induction m with
  | nil => rfl
  | cons e m ih =>
    obtain ⟨c, q⟩ := e
    simp only [pixClear, List.filter_cons] at ih ⊢
    by_cases hc : onCanvas w h c = true
    · have hca : c ≠ a := fun e => by simp [e, ha] at hc
      simp only [hc, Bool.not_true, Bool.false_eq_true, if_false, pixGet, if_neg hca, ih]
    · simp only [Bool.not_eq_true] at hc
      simp only [hc, Bool.not_false, if_true, pixGet, ih]

/-! ### The canonical form -/

theorem pixCons_wf {m : PixStore} {a : Nat} (p : Pixel) (hm : PixStore.WF m) (h : ∀ e ∈ m, a < e.1) :
    PixStore.WF (pixCons a p m) := by
  by_cases hp : p = unlistedPixel
  · simpa only [pixCons, hp, if_true] using hm
  · simp only [pixCons, hp, if_false]
    refine ⟨List.pairwise_cons.mpr ⟨h, hm.1⟩, fun e he => ?_⟩
    rcases List.mem_cons.mp he with rfl | he
    · exact hp
    · exact hm.2 e he

/-- An entry that a write lists is the written one or an old one. -/
theorem mem_pixPut {m : PixStore} {a : Nat} {p : Pixel} {e : Nat × Pixel} (he : e ∈ pixPut m a p) :
    e = (a, p) ∨ e ∈ m := by
  have hcons : ∀ {m : PixStore}, e ∈ pixCons a p m → e = (a, p) ∨ e ∈ m := fun {m} h => by
    by_cases hp : p = unlistedPixel
    · simp only [pixCons, hp, if_true] at h; exact .inr h
    · simp only [pixCons, hp, if_false] at h; exact List.mem_cons.mp h
  induction m with
  | nil => exact hcons he
  | cons f m ih =>
    obtain ⟨c, q⟩ := f
    simp only [pixPut] at he
    split at he
    · exact hcons he
    · split at he
      · exact (hcons he).imp_right (List.mem_cons_of_mem _)
      · rcases List.mem_cons.mp he with rfl | he
        · exact .inr (List.mem_cons_self ..)
        · exact (ih he).imp_right (List.mem_cons_of_mem _)

/-- Writing an entry keeps the canonical form. -/
theorem pixPut_wf {m : PixStore} (hm : PixStore.WF m) (a : Nat) (p : Pixel) : PixStore.WF (pixPut m a p) := by
  induction m with
  | nil => exact pixCons_wf p hm (by simp)
  | cons e m ih =>
    obtain ⟨c, q⟩ := e
    have hlt : ∀ f ∈ m, c < f.1 := (List.pairwise_cons.mp hm.1).1
    simp only [pixPut]
    split
    · next hac =>
      refine pixCons_wf p hm fun f hf => ?_
      rcases List.mem_cons.mp hf with rfl | hf
      · exact hac
      · exact Nat.lt_trans hac (hlt f hf)
    · split
      · next hca => exact pixCons_wf p hm.tail fun f hf => hca ▸ hlt f hf
      · next hac hca =>
        refine ⟨List.pairwise_cons.mpr ⟨fun f hf => ?_, (ih hm.tail).1⟩, fun f hf => ?_⟩
        · rcases mem_pixPut hf with rfl | hf
          · exact Nat.lt_of_le_of_ne (Nat.le_of_not_lt hac) hca
          · exact hlt f hf
        · rcases List.mem_cons.mp hf with rfl | hf
          · exact hm.2 _ (List.mem_cons_self ..)
          · exact (ih hm.tail).2 f hf

/-- Clearing a canvas keeps the canonical form. -/
theorem pixClear_wf {m : PixStore} (hm : PixStore.WF m) (w h : Nat) : PixStore.WF (pixClear w h m) :=
  ⟨hm.1.filter _, fun e he => hm.2 e (List.mem_filter.mp he).1⟩

theorem mem_pixClear {m : PixStore} {w h : Nat} {e : Nat × Pixel} (he : e ∈ pixClear w h m) : e ∈ m :=
  (List.mem_filter.mp he).1

/-- `State.reset`'s pixel store is in canonical form. -/
theorem reset_pix_wf : PixStore.WF State.reset.pix := by decide

/-- Clearing the canvas is writing the default pixel to each of its entries, one PixWrite after another (R116). -/
theorem pixGet_pixClear (m : PixStore) (w h a : Nat) :
    pixGet (pixClear w h m) a = if onCanvas w h a then defaultPixel else pixGet m a := by
  cases ha : onCanvas w h a
  · exact pixGet_pixClear_off m ha
  · exact pixGet_pixClear_on m ha

end Sys2Proof.Machine
end

