-- ==== Sys2Proof/Laws/PerInstr.lean ====
section
/-! SUPPORT. Statements about every command as syntax, one lemma per constructor. -/

namespace Sys2Proof.Laws.EncodingFields

/-- A command is well formed, and the word it is encoded as has its fields in the places of 30_encoding section 1. -/
def Statement (i : Instr) : Prop := i.wellFormed = true ∧ splitWord (encode i) = i.fields

theorem configure (hasAlpha : Bool) : Statement (.configure hasAlpha) := by cases hasAlpha <;> exact ⟨rfl, rfl⟩
theorem setPixel : Statement .setPixel := ⟨rfl, rfl⟩
theorem getPixel : Statement .getPixel := ⟨rfl, rfl⟩
theorem serialize : Statement .serialize := ⟨rfl, rfl⟩

end Sys2Proof.Laws.EncodingFields
end

