-- ==== Sys2Proof/Laws/Step.lean ====
section
/-! SUPPORT. One lemma per shared operation that says everything it can do; proofs cite these and do not unfold. -/

namespace Sys2Proof.Machine

/-! ### Host accesses -/

/-- Everything a host write to a register can do (R22, R26, R29, R95). -/
theorem writeReg_cases (v : Word) (s : State) (r : Reg) :
    writeReg v s r = s ∨ (∃ regs, writeReg v s r = { s with regs := regs }) ∨
    (r = .status ∧ v.getLsbD 3 = true ∧ writeReg v s r = { s with ovr := false }) ∨
    (r = .cmd ∧ s.phase ≠ .idle ∧ writeReg v s r = { s with ovr := true }) ∨
    (r = .cmd ∧ s.phase = .idle ∧ writeReg v s r = issueAccepted v s) := by
  cases r
  case cmd =>
    by_cases h : s.phase = .idle
    · exact .inr (.inr (.inr (.inr ⟨rfl, h, by simp [writeReg, issue, State.busy, h]⟩)))
    · exact .inr (.inr (.inr (.inl ⟨rfl, h, by simp [writeReg, issue, State.busy, h]⟩)))
  case status =>
    cases hv : v.getLsbD 3
    · exact .inl (by simp only [writeReg, writeStatus, hv, Bool.false_eq_true, if_false])
    · exact .inr (.inr (.inl ⟨rfl, rfl, by simp only [writeReg, writeStatus, hv, if_true]⟩))
  case widthIn => exact .inr (.inl ⟨_, rfl⟩)
  case heightIn => exact .inr (.inl ⟨_, rfl⟩)
  case xIn => exact .inr (.inl ⟨_, rfl⟩)
  case yIn => exact .inr (.inl ⟨_, rfl⟩)
  case rIn => exact .inr (.inl ⟨_, rfl⟩)
  case gIn => exact .inr (.inl ⟨_, rfl⟩)
  case bIn => exact .inr (.inl ⟨_, rfl⟩)
  case aIn => exact .inr (.inl ⟨_, rfl⟩)
  all_goals exact .inl rfl

/-- Everything a host write can do, at any address. -/
theorem busWrite_cases (s : State) (a : BusAddr) (v : Word) :
    busWrite s a v = s ∨ (∃ regs, busWrite s a v = { s with regs := regs }) ∨
    (regAt a = some .status ∧ v.getLsbD 3 = true ∧ busWrite s a v = { s with ovr := false }) ∨
    (regAt a = some .cmd ∧ s.phase ≠ .idle ∧ busWrite s a v = { s with ovr := true }) ∨
    (regAt a = some .cmd ∧ s.phase = .idle ∧ busWrite s a v = issueAccepted v s) := by
  cases hr : regAt a with
  | none => exact .inl (by simp only [busWrite, hr])
  | some r =>
    have hb : busWrite s a v = writeReg v s r := by simp only [busWrite, hr]
    rw [hb]
    rcases writeReg_cases v s r with h | h | ⟨rfl, h⟩ | ⟨rfl, h⟩ | ⟨rfl, h⟩
    · exact .inl h
    · exact .inr (.inl h)
    · exact .inr (.inr (.inl ⟨rfl, h⟩))
    · exact .inr (.inr (.inr (.inl ⟨rfl, h⟩)))
    · exact .inr (.inr (.inr (.inr ⟨rfl, h⟩)))

/-- Every statement but WAIT is one access (R99). -/
theorem hostMove_access {s : State} {st : Stmt} {rest : List Stmt} (hp : s.program = st :: rest) (hw : st ≠ .wait) :
    hostMove s = performAccess st.encode { s with program := rest } := by
  cases st <;> first | exact absurd rfl hw | simp only [hostMove, hp]

/-- Everything the host's move can do: note a value and go on in its program, or perform one write. -/
theorem hostMove_cases (s : State) :
    (∃ p l, hostMove s = { s with program := p, busLog := l }) ∨
    (s.rst = false ∧ ∃ st rest a v, s.program = st :: rest ∧ st.encode = .write a v ∧
      hostMove s = busWrite { s with program := rest } a v) := by
  cases hp : s.program with
  | nil => exact .inl ⟨[], s.busLog, by simp only [hostMove, hp]; rw [← hp]⟩
  | cons st rest =>
    by_cases hw : st = .wait
    · subst hw
      refine .inl ?_
      simp only [hostMove, hp, performWait]
      split
      · exact ⟨s.program, _, rfl⟩
      · exact ⟨rest, _, rfl⟩
    · rw [hostMove_access hp hw]
      cases he : st.encode with
      | read a => exact .inl ⟨rest, _, rfl⟩
      | write a v =>
        cases hr : s.rst
        · exact .inr ⟨rfl, st, rest, a, v, rfl, he, by simp only [performAccess, Bool.false_eq_true, if_false]⟩
        · exact .inl ⟨rest, s.busLog, by simp only [performAccess, if_true]⟩

/-! ### Commands -/

theorem dimsValid_iff (s : State) : dimsValid s.params (opWidth s) (opHeight s) = true ↔ s.DimsOk := by
  simp only [dimsValid, Bool.and_eq_true, decide_eq_true_eq, and_assoc]; simp only [opWidth, opHeight]

theorem inBounds_iff (s : State) : inBounds s (opX s) (opY s) = true ↔ s.AccessOk := by
  simp only [inBounds, Bool.and_eq_true, decide_eq_true_eq, and_assoc]; simp only [opX, opY]

/-- Everything CONFIGURE can do (R116). -/
theorem execConfigure_cases (al : Bool) (s : State) :
    (s.DimsOk ∧ exec (.configure al) s =
      .next (complete (constructCanvas (opWidth s).toNat (opHeight s).toNat al s))) ∨
    (¬ s.DimsOk ∧ exec (.configure al) s = .next (raiseError .invalidDimension s)) := by
  by_cases h : s.DimsOk
  · exact .inl ⟨h, by simp only [exec, execConfigure, (dimsValid_iff s).mpr h, if_true]⟩
  · refine .inr ⟨h, ?_⟩
    have hf : dimsValid s.params (opWidth s) (opHeight s) = false := by
      rw [← Bool.not_eq_true, dimsValid_iff]; exact h
    simp only [exec, execConfigure, hf, Bool.false_eq_true, if_false]

/-- Everything the two accessors' checks can answer (R203, R204). -/
theorem accessError_cases (s : State) :
    (s.configured = false ∧ accessError s = some .noCanvas) ∨
    (s.configured = true ∧ ¬ s.AccessOk ∧ accessError s = some .outOfBounds) ∨
    (s.configured = true ∧ s.AccessOk ∧ accessError s = none) := by
  cases hc : s.configured
  · exact .inl ⟨rfl, by simp only [accessError, hc, if_true]⟩
  · by_cases h : s.AccessOk
    · exact .inr (.inr ⟨rfl, h, by simp [accessError, hc, (inBounds_iff s).mpr h]⟩)
    · have hf : inBounds s (opX s) (opY s) = false := by rw [← Bool.not_eq_true, inBounds_iff]; exact h
      exact .inr (.inl ⟨rfl, h, by simp [accessError, hc, hf]⟩)

/-- Everything SET_PIXEL can do (R134). -/
theorem execSetPixel_cases (s : State) :
    (s.configured = false ∧ exec .setPixel s = .next (raiseError .noCanvas s)) ∨
    (s.configured = true ∧ ¬ s.AccessOk ∧ exec .setPixel s = .next (raiseError .outOfBounds s)) ∨
    (s.configured = true ∧ s.AccessOk ∧
      exec .setPixel s = .next (complete (pixWrite (opX s).toNat (opY s).toNat (opPixel s) s))) := by
  rcases accessError_cases s with ⟨hc, h⟩ | ⟨hc, ha, h⟩ | ⟨hc, ha, h⟩
  · exact .inl ⟨hc, by simp only [exec, execSetPixel, h]⟩
  · exact .inr (.inl ⟨hc, ha, by simp only [exec, execSetPixel, h]⟩)
  · exact .inr (.inr ⟨hc, ha, by simp only [exec, execSetPixel, h]⟩)

/-- Everything GET_PIXEL can do (R140). -/
theorem execGetPixel_cases (s : State) :
    (s.configured = false ∧ exec .getPixel s = .next (raiseError .noCanvas s)) ∨
    (s.configured = true ∧ ¬ s.AccessOk ∧ exec .getPixel s = .next (raiseError .outOfBounds s)) ∨
    (s.configured = true ∧ s.AccessOk ∧ exec .getPixel s =
      .next (complete { s with result := packPixel (reported s (pixRead s (opX s).toNat (opY s).toNat)) })) := by
  rcases accessError_cases s with ⟨hc, h⟩ | ⟨hc, ha, h⟩ | ⟨hc, ha, h⟩
  · exact .inl ⟨hc, by simp only [exec, execGetPixel, h]⟩
  · exact .inr (.inl ⟨hc, ha, by simp only [exec, execGetPixel, h]⟩)
  · exact .inr (.inr ⟨hc, ha, by simp only [exec, execGetPixel, h]⟩)

/-- Everything SERIALIZE's step after decode can do (R171). -/
theorem execSerialize_cases (s : State) :
    (s.configured = false ∧ exec .serialize s = .next (raiseError .noCanvas s)) ∨
    (s.configured = true ∧ exec .serialize s = .next (startStream s)) := by
  cases hc : s.configured
  · exact .inl ⟨rfl, by simp only [exec, execSerialize, hc, if_true]⟩
  · exact .inr ⟨rfl, by simp only [exec, execSerialize, hc, Bool.true_eq_false, if_false]⟩

/-- A command always answers a next state (R200: an error is one too). -/
theorem exec_answers (i : Instr) (s : State) : ∃ t, exec i s = .next t := by
  cases i with
  | configure al => rcases execConfigure_cases al s with ⟨-, h⟩ | ⟨-, h⟩ <;> exact ⟨_, h⟩
  | setPixel => rcases execSetPixel_cases s with ⟨-, h⟩ | ⟨-, -, h⟩ | ⟨-, -, h⟩ <;> exact ⟨_, h⟩
  | getPixel => rcases execGetPixel_cases s with ⟨-, h⟩ | ⟨-, -, h⟩ | ⟨-, -, h⟩ <;> exact ⟨_, h⟩
  | serialize => rcases execSerialize_cases s with ⟨-, h⟩ | ⟨-, h⟩ <;> exact ⟨_, h⟩

/-- The step of phase EXEC: a command, or IllegalCommand (R96). -/
theorem runCommand_cases (s : State) :
    (∃ i, decode s.lc.word = .ok i ∧ runCommand s = exec i s) ∨
    (∃ e, decode s.lc.word = .error e ∧ runCommand s = .next (raiseError .illegalCommand s)) := by
  cases h : decode s.lc.word with
  | ok i => exact .inl ⟨i, rfl, by simp only [runCommand, h]⟩
  | error e => exact .inr ⟨e, rfl, by simp only [runCommand, h]⟩

/-! ### The stream -/

/-- Everything raising OUT_VALID can do (R170). -/
theorem driveByte_cases (s : State) :
    (∃ b, fileByte s s.k.toNat = some b ∧ driveByte s = .next { s with
      out := { valid := true, data := b, last := decide (s.k.toNat + 1 = s.layout.fileSize.toNat) } }) ∨
    (fileByte s s.k.toNat = none ∧ driveByte s = .fault .byteOutsideFile) := by
  cases h : fileByte s s.k.toNat with
  | some b => exact .inl ⟨b, rfl, by simp only [driveByte, h]⟩
  | none => exact .inr ⟨rfl, by simp only [driveByte, h]⟩

theorem canTransfer_iff (s : State) :
    canTransfer s = true ↔ s.phase = .stream ∧ s.out.valid = true ∧ s.outReady = true := by
  simp only [canTransfer, Bool.and_eq_true, decide_eq_true_eq, and_assoc]

/-- Everything a transfer move can do (R170, R171): nothing, the last transfer, a transfer that holds OUT_VALID, or
one that lowers it. -/
theorem transferMove_cases (hold : Bool) (s : State) :
    (canTransfer s = false ∧ transferMove hold s = .next s) ∨
    (canTransfer s = true ∧ (emitByte s).k = s.layout.fileSize ∧
      transferMove hold s = .next (complete (emitByte s))) ∨
    (canTransfer s = true ∧ (emitByte s).k ≠ s.layout.fileSize ∧ hold = true ∧
      transferMove hold s = driveByte (emitByte s)) ∨
    (canTransfer s = true ∧ (emitByte s).k ≠ s.layout.fileSize ∧ hold = false ∧
      transferMove hold s = .next (emitByte s)) := by
  cases hc : canTransfer s
  · exact .inl ⟨rfl, by simp only [transferMove, hc, Bool.false_eq_true, if_false]⟩
  · by_cases hk : (emitByte s).k = s.layout.fileSize
    · exact .inr (.inl ⟨rfl, hk, by simp only [transferMove, hc, if_true, afterTransfer, emitByte_layout, hk]⟩)
    · cases hold
      · exact .inr (.inr (.inr ⟨rfl, hk, rfl, by
          simp only [transferMove, hc, if_true, afterTransfer, emitByte_layout, hk, if_false, Bool.false_eq_true]⟩))
      · exact .inr (.inr (.inl ⟨rfl, hk, rfl, by
          simp only [transferMove, hc, if_true, afterTransfer, emitByte_layout, hk, if_false]⟩))

/-- The bytes of the file depend on the canvas, the layout, the pixel store and N only. -/
theorem fileByte_congr {s t : State} (k : Nat) (hl : t.layout = s.layout) (hw : t.curWidth = s.curWidth)
    (hh : t.curHeight = s.curHeight) (ha : t.alpha = s.alpha) (hp : t.pix = s.pix) (hn : t.n = s.n) :
    fileByte t k = fileByte s k := by
  simp only [fileByte, headerBytes, fileHeader, dibBase, heightField, maskBlock, pixelByte, rowByte, pixRead, hl, hw,
    hh, ha, hp, hn]

/-- The count depends on the canvas and the pixel store only. -/
theorem uniqueCount_congr {s t : State} (hw : t.curWidth = s.curWidth) (hh : t.curHeight = s.curHeight)
    (hp : t.pix = s.pix) : uniqueCount t = uniqueCount s := by
  simp only [uniqueCount, canvasPixels, pixRead, hw, hh, hp]

/-! ### A step -/

/-- A step is the next move on the advanced state. -/
theorem step_eq (s : State) : step s = applyMove (nextMove s) (advance s) := rfl

/-- What each move does. -/
theorem applyMove_host (s : State) : applyMove .host s = .next (hostMove s) := rfl
theorem applyMove_sink (r : Bool) (s : State) : applyMove (.sink r) s = .next { s with outReady := r } := rfl
theorem applyMove_assert (s : State) : applyMove (.rst true) s = .next (holdReset s) := rfl
theorem applyMove_release (s : State) : applyMove (.rst false) s = .next (releaseReset s) := rfl

theorem applyMove_engine_reset {s : State} (h : s.rst = true) : applyMove .engine s = .next s := by
  simp only [applyMove, h, if_true]

theorem applyMove_engine {s : State} (h : s.rst = false) : applyMove .engine s = engineMove s := by
  simp only [applyMove, h, Bool.false_eq_true, if_false]

theorem applyMove_transfer_reset {s : State} (hold : Bool) (h : s.rst = true) :
    applyMove (.transfer hold) s = .next s := by
  simp only [applyMove, h, if_true]

theorem applyMove_transfer {s : State} (hold : Bool) (h : s.rst = false) :
    applyMove (.transfer hold) s = transferMove hold s := by
  simp only [applyMove, h, Bool.false_eq_true, if_false]

/-- Everything the engine's move can do, by phase (R40). -/
theorem engineMove_cases (s : State) :
    (s.phase = .idle ∧ engineMove s = .next s) ∨ (s.phase = .exec ∧ engineMove s = runCommand s) ∨
    (s.phase = .stream ∧ s.out.valid = true ∧ engineMove s = .next s) ∨
    (s.phase = .stream ∧ s.out.valid = false ∧ engineMove s = driveByte s) := by
  cases hp : s.phase
  · exact .inl ⟨rfl, by simp only [engineMove, hp]⟩
  · exact .inr (.inl ⟨rfl, by simp only [engineMove, hp]⟩)
  · cases hv : s.out.valid
    · exact .inr (.inr (.inr ⟨rfl, rfl, by simp only [engineMove, hp, raiseValid, hv, Bool.false_eq_true, if_false]⟩))
    · exact .inr (.inr (.inl ⟨rfl, rfl, by simp only [engineMove, hp, raiseValid, hv, if_true]⟩))

/-- Everything a step can do when it answers a next state, by who moves (R74, R230). -/
theorem step_cases {s t : State} (h : step s = .next t) :
    (nextMove s = .host ∧ t = hostMove (advance s)) ∨
    (nextMove s = .engine ∧ s.rst = true ∧ t = advance s) ∨
    (nextMove s = .engine ∧ s.rst = false ∧ engineMove (advance s) = .next t) ∨
    (∃ hold, nextMove s = .transfer hold ∧ s.rst = true ∧ t = advance s) ∨
    (∃ hold, nextMove s = .transfer hold ∧ s.rst = false ∧ transferMove hold (advance s) = .next t) ∨
    (∃ r, nextMove s = .sink r ∧ t = { advance s with outReady := r }) ∨
    (nextMove s = .rst true ∧ t = holdReset (advance s)) ∨
    (nextMove s = .rst false ∧ t = releaseReset (advance s)) := by
  rw [step_eq] at h
  cases hm : nextMove s with
  | host => rw [hm, applyMove_host] at h; cases h; exact .inl ⟨rfl, rfl⟩
  | engine =>
    rw [hm] at h
    cases hr : s.rst
    · rw [applyMove_engine (by simpa using hr)] at h; exact .inr (.inr (.inl ⟨rfl, rfl, h⟩))
    · rw [applyMove_engine_reset (by simpa using hr)] at h; cases h; exact .inr (.inl ⟨rfl, rfl, rfl⟩)
  | transfer hold =>
    rw [hm] at h
    cases hr : s.rst
    · rw [applyMove_transfer _ (by simpa using hr)] at h
      exact .inr (.inr (.inr (.inr (.inl ⟨hold, rfl, rfl, h⟩))))
    · rw [applyMove_transfer_reset _ (by simpa using hr)] at h; cases h
      exact .inr (.inr (.inr (.inl ⟨hold, rfl, rfl, rfl⟩)))
  | sink r =>
    rw [hm, applyMove_sink] at h; cases h
    exact .inr (.inr (.inr (.inr (.inr (.inl ⟨r, rfl, rfl⟩)))))
  | rst asserted =>
    rw [hm] at h
    cases asserted
    · rw [applyMove_release] at h; cases h
      exact .inr (.inr (.inr (.inr (.inr (.inr (.inr ⟨rfl, rfl⟩))))))
    · rw [applyMove_assert] at h; cases h
      exact .inr (.inr (.inr (.inr (.inr (.inr (.inl ⟨rfl, rfl⟩))))))

/-- Everything a step that answers a next state can have done to the whole state. Each case names its guard and the
next state, so that a claim about every step is a case analysis over these and unfolds no meaning. -/
inductive StepEffect (s : State) : State → Prop where
  /-- The host moved on in its program and noted what it read, or the move was one that could not be made. -/
  | hostNote (p : List Stmt) (l : List BusRead) : StepEffect s { advance s with program := p, busLog := l }
  /-- A host write to an operand register, or one that is ignored (R22, R29). -/
  | operandWrite (a : BusAddr) (v : Word) (p : List Stmt) (regs : Operands) : s.HostWrites a v p →
      StepEffect s { advance s with program := p, regs := regs }
  /-- A host write to STATUS with bit 3 set (R26). -/
  | ovrCleared (a : BusAddr) (v : Word) (p : List Stmt) : s.HostWrites a v p → regAt a = some .status →
      v.getLsbD 3 = true → StepEffect s { advance s with program := p, ovr := false }
  /-- A CMD write while BUSY (R95). -/
  | overrun (a : BusAddr) (v : Word) (p : List Stmt) : s.HostWrites a v p → regAt a = some .cmd → s.phase ≠ .idle →
      StepEffect s { advance s with program := p, ovr := true }
  /-- An accepted issue (R95). -/
  | issued (a : BusAddr) (v : Word) (p : List Stmt) : s.HostWrites a v p → regAt a = some .cmd → s.phase = .idle →
      StepEffect s (issueAccepted v { advance s with program := p })
  /-- A command that ends with an error (R200). -/
  | commandError (c : ErrCode) : s.RunsCommand → StepEffect s (raiseError c (advance s))
  /-- A successful CONFIGURE (R116). -/
  | configured (al : Bool) : s.ConfiguresWith al →
      StepEffect s (complete (constructCanvas (opWidth s).toNat (opHeight s).toNat al (advance s)))
  /-- A successful SET_PIXEL (R134). -/
  | pixelSet : s.RunsCommand → decode s.lc.word = .ok .setPixel → s.configured = true → s.AccessOk →
      StepEffect s (complete (pixWrite (opX s).toNat (opY s).toNat (opPixel s) (advance s)))
  /-- A successful GET_PIXEL (R140). -/
  | pixelGot : s.GetsPixel →
      StepEffect s (complete { advance s with
        result := packPixel (reported s (pixRead s (opX s).toNat (opY s).toNat)) })
  /-- The start of a SERIALIZE (R172). -/
  | streamStarted : s.RunsCommand → decode s.lc.word = .ok .serialize → s.configured = true →
      StepEffect s (startStream (advance s))
  /-- The engine raises OUT_VALID (R170). -/
  | validRaised (b : Byte) : nextMove s = .engine → s.rst = false → s.phase = .stream → s.out.valid = false →
      fileByte s s.k.toNat = some b →
      StepEffect s { advance s with
        out := { valid := true, data := b, last := decide (s.k.toNat + 1 = s.layout.fileSize.toNat) } }
  /-- The last transfer, which completes the SERIALIZE (R171). -/
  | lastTransfer : s.Transfers → s.k + 1 = s.layout.fileSize → StepEffect s (complete (emitByte (advance s)))
  /-- A transfer after which OUT_VALID stays raised with the next byte (R170). -/
  | transferHeld (b : Byte) : s.Transfers → s.k + 1 ≠ s.layout.fileSize → fileByte s (s.k + 1).toNat = some b →
      StepEffect s { emitByte (advance s) with
        out := { valid := true, data := b, last := decide ((s.k + 1).toNat + 1 = s.layout.fileSize.toNat) } }
  /-- A transfer after which OUT_VALID is low (R170). -/
  | transferLowered : s.Transfers → s.k + 1 ≠ s.layout.fileSize → StepEffect s (emitByte (advance s))
  /-- The sink drives OUT_READY. -/
  | sinkDrove (r : Bool) : nextMove s = .sink r → StepEffect s { advance s with outReady := r }
  /-- RST is asserted (R230). -/
  | resetAsserted : nextMove s = .rst true → StepEffect s (holdReset (advance s))
  /-- RST is released (R230). -/
  | resetReleased : nextMove s = .rst false → StepEffect s (releaseReset (advance s))

/-- The host's move, as an effect of a step. -/
theorem hostMove_effect {s : State} (hm : nextMove s = .host) : StepEffect s (hostMove (advance s)) := by
  rcases hostMove_cases (advance s) with ⟨p, l, h⟩ | ⟨hr, st, rest, a, v, hp, he, h⟩
  · rw [h]; exact .hostNote p l
  · rw [h]
    have hw : s.HostWrites a v rest := ⟨hm, hr, st, hp, he⟩
    rcases busWrite_cases { advance s with program := rest } a v with h | ⟨regs, h⟩ | ⟨ha, hv, h⟩ | ⟨ha, hp, h⟩ |
      ⟨ha, hp, h⟩ <;> rw [h]
    · exact .operandWrite a v rest s.regs hw
    · exact .operandWrite a v rest regs hw
    · exact .ovrCleared a v rest hw ha hv
    · exact .overrun a v rest hw ha hp
    · exact .issued a v rest hw ha hp

/-- The step of phase EXEC, as an effect of a step. -/
theorem runCommand_effect {s t : State} (rc : s.RunsCommand) (h : runCommand (advance s) = .next t) :
    StepEffect s t := by
  rcases runCommand_cases (advance s) with ⟨i, hi, h'⟩ | ⟨e, -, h'⟩ <;> rw [h'] at h
  · cases i with
    | configure al =>
      rcases execConfigure_cases al (advance s) with ⟨hd, h'⟩ | ⟨-, h'⟩ <;> rw [h'] at h <;> cases h
      · exact .configured al ⟨rc, hi, hd⟩
      · exact .commandError _ rc
    | setPixel =>
      rcases execSetPixel_cases (advance s) with ⟨-, h'⟩ | ⟨-, -, h'⟩ | ⟨hc, ha, h'⟩ <;> rw [h'] at h <;> cases h
      · exact .commandError _ rc
      · exact .commandError _ rc
      · exact .pixelSet rc hi hc ha
    | getPixel =>
      rcases execGetPixel_cases (advance s) with ⟨-, h'⟩ | ⟨-, -, h'⟩ | ⟨hc, ha, h'⟩ <;> rw [h'] at h <;> cases h
      · exact .commandError _ rc
      · exact .commandError _ rc
      · exact .pixelGot ⟨rc, hi, hc, ha⟩
    | serialize =>
      rcases execSerialize_cases (advance s) with ⟨-, h'⟩ | ⟨hc, h'⟩ <;> rw [h'] at h <;> cases h
      · exact .commandError _ rc
      · exact .streamStarted rc hi hc
  · cases h; exact .commandError _ rc

/-- The engine's move, as an effect of a step. -/
theorem engineMove_effect {s t : State} (hm : nextMove s = .engine) (hr : s.rst = false)
    (h : engineMove (advance s) = .next t) : StepEffect s t := by
  rcases engineMove_cases (advance s) with ⟨-, h'⟩ | ⟨hp, h'⟩ | ⟨-, -, h'⟩ | ⟨hp, hv, h'⟩ <;> rw [h'] at h
  · cases h; exact .hostNote s.program s.busLog
  · exact runCommand_effect ⟨hm, hp, hr⟩ h
  · cases h; exact .hostNote s.program s.busLog
  · rcases driveByte_cases (advance s) with ⟨b, hb, h'⟩ | ⟨-, h'⟩ <;> rw [h'] at h <;> cases h
    exact .validRaised b hm hr hp hv hb

/-- A transfer move, as an effect of a step. -/
theorem transferMove_effect {s t : State} {hold : Bool} (hm : nextMove s = .transfer hold) (hr : s.rst = false)
    (h : transferMove hold (advance s) = .next t) : StepEffect s t := by
  rcases transferMove_cases hold (advance s) with ⟨-, h'⟩ | ⟨hc, hk, h'⟩ | ⟨hc, hk, -, h'⟩ | ⟨hc, hk, -, h'⟩ <;>
    rw [h'] at h
  · cases h; exact .hostNote s.program s.busLog
  all_goals have tr : s.Transfers := ⟨⟨hold, hm⟩, hr, (canTransfer_iff _).mp hc⟩
  · cases h; exact .lastTransfer tr hk
  · rcases driveByte_cases (emitByte (advance s)) with ⟨b, hb, h'⟩ | ⟨-, h'⟩ <;> rw [h'] at h <;> cases h
    exact .transferHeld b tr hk hb
  · cases h; exact .transferLowered tr hk

/-- Everything a step can do. -/
theorem step_effect {s t : State} (h : step s = .next t) : StepEffect s t := by
  rcases step_cases h with ⟨hm, rfl⟩ | ⟨-, -, rfl⟩ | ⟨hm, hr, h⟩ | ⟨-, -, -, rfl⟩ | ⟨hold, hm, hr, h⟩ | ⟨r, hm, rfl⟩ |
    ⟨hm, rfl⟩ | ⟨hm, rfl⟩
  · exact hostMove_effect hm
  · exact .hostNote s.program s.busLog
  · exact engineMove_effect hm hr h
  · exact .hostNote s.program s.busLog
  · exact transferMove_effect hm hr h
  · exact .sinkDrove r hm
  · exact .resetAsserted hm
  · exact .resetReleased hm

end Sys2Proof.Machine
end

