-- ==== Sys2Proof/Tests/Slice0.lean ====
section
/-! SUPPORT. Tests with expected results from 95_test_vectors.md, and for every statement with hypotheses a witness
that meets them all together. -/

namespace Sys2Proof.Tests

open Sys2Proof Sys2Proof.Machine

/-! ### Small states -/

/-- The 2 × 1 canvas of vector S1. -/
def canvas21 : State :=
  { State.reset with
    configured := true, curWidth := 2, curHeight := 1
    layout := { bytesPP := 3, stride := 8, hdrSize := 40, pixOffset := 54, fileSize := 62 }
    pix := [(0, { r := 255, g := 0, b := 0, a := 255 }), (1, { r := 0, g := 255, b := 0, a := 255 })] }

/-- The 1 × 1 canvas with alpha of vector S2. -/
def canvas11a : State :=
  { State.reset with
    configured := true, alpha := true, curWidth := 1, curHeight := 1
    layout := { bytesPP := 4, stride := 4, hdrSize := 56, pixOffset := 70, fileSize := 74 }
    pix := [(0, { r := 10, g := 20, b := 30, a := 40 })] }

/-- Operands for CONFIGURE. -/
def dims (w h : Int) : Operands := { Operands.reset with w := u32 w, h := u32 h }

/-- Operands for the accessors. -/
def place (x y r g b a : Int) : Operands :=
  { w := 0, h := 0, x := u32 x, y := u32 y, r := u32 r, g := u32 g, b := u32 b, a := u32 a }

/-- s with command word v issued on operands o (R95). -/
def running (v : Word) (o : Operands) (s : State) : State :=
  { s with lc := { op := v.extractLsb' 0 4, word := v, ops := o }, err := .ok, phase := .exec }

/-- s in phase STREAM with the cursor at k and OUT_VALID low. -/
def streaming (k : Word) (s : State) : State :=
  { running 4 Operands.reset s with n := BitVec.ofNat 32 (uniqueCount s), k := k, phase := .stream }

/-- s in phase STREAM offering byte b at offset k. -/
def offering (k : Word) (b : Byte) (last : Bool) (s : State) : State :=
  { streaming k s with out := { valid := true, data := b, last := last } }

/-- s with the host's program p. -/
def hosting (p : List Stmt) (s : State) : State := { s with program := p, sched := [.host] }

/-- The state after a command that answers one. -/
def ran (i : Instr) (s : State) : State :=
  match exec i s with
  | .next t => t
  | _ => s

/-- The state after a move that answers one. -/
def moved (m : Move) (s : State) : State :=
  match applyMove m s with
  | .next t => t
  | _ => s

/-- The state after a step that answers one. -/
def stepped (s : State) : State := moved (nextMove s) (advance s)

/-- Does a move answer a next state? -/
def answers (m : Move) (s : State) : Bool :=
  match applyMove m s with
  | .next _ => true
  | _ => false

theorem moved_eq {m : Move} {s : State} (h : answers m s = true) : applyMove m s = .next (moved m s) := by
  unfold answers at h
  unfold moved
  split at h
  · next heq => rw [heq]
  · cases h

theorem stepped_eq {s : State} (h : answers (nextMove s) (advance s) = true) : step s = .next (stepped s) :=
  moved_eq h

/-- The invariant, part by part. -/
def invCheck (s : State) : Bool :=
  s.params.legal && decide s.CanvasInv && decide s.StoreInv && decide s.OpaqueInv && decide s.IssueInv &&
  decide s.StreamInv && decide s.PortInv && decide s.ResetInv

theorem inv_of_check {s : State} (h : invCheck s = true) : s.Inv := by
  simp only [invCheck, Bool.and_eq_true, decide_eq_true_eq] at h
  obtain ⟨⟨⟨⟨⟨⟨⟨h1, h2⟩, h3⟩, h4⟩, h5⟩, h6⟩, h7⟩, h8⟩ := h
  exact ⟨h1, h2, h3, h4, h5, h6, h7, h8⟩

theorem ran_eq (i : Instr) (s : State) : exec i s = .next (ran i s) := by
  obtain ⟨t, h⟩ := exec_answers i s
  simp only [ran, h]

/-! ### WellFormed refuses an ill-formed term, check by check (R90, R7) -/

theorem test_opAssigned_refuses :
    CmdFields.opAssigned { op := 5, rsv0 := 0, alpha := 0, rsv1 := 0 } = false := by decide
theorem test_rsv0_refused : CmdFields.legal { op := 1, rsv0 := 1, alpha := 0, rsv1 := 0 } = false := by decide
theorem test_rsv1_refused : CmdFields.legal { op := 1, rsv0 := 0, alpha := 0, rsv1 := 1 } = false := by decide
theorem test_alphaAllowed_refuses :
    CmdFields.alphaAllowed { op := 2, rsv0 := 0, alpha := 1, rsv1 := 0 } = false := by decide
theorem test_widthOk_refuses : Config.Params.widthOk { wMax := 0, hMax := 1 } = false := by decide
theorem test_heightOk_refuses : Config.Params.heightOk { wMax := 1, hMax := 0 } = false := by decide
theorem test_sizeOk_refuses : Config.Params.sizeOk { wMax := 32768, hMax := 32768 } = false := by decide
theorem test_legal_params : Config.Params.legal { wMax := 32767, hMax := 32767 } = true := by decide

/-! ### Decoding words written out from R90: RSV1, ALPHA, RSV0, OP -/

theorem test_decode_configure :
    decode (0b00000000000000000000000#23 ++ 0b0#1 ++ 0b0000#4 ++ 0b0001#4) = .ok (.configure false) := by decide
theorem test_decode_configure_alpha :
    decode (0b00000000000000000000000#23 ++ 0b1#1 ++ 0b0000#4 ++ 0b0001#4) = .ok (.configure true) := by decide
theorem test_decode_setPixel :
    decode (0b00000000000000000000000#23 ++ 0b0#1 ++ 0b0000#4 ++ 0b0010#4) = .ok .setPixel := by decide
theorem test_decode_getPixel :
    decode (0b00000000000000000000000#23 ++ 0b0#1 ++ 0b0000#4 ++ 0b0011#4) = .ok .getPixel := by decide
theorem test_decode_serialize :
    decode (0b00000000000000000000000#23 ++ 0b0#1 ++ 0b0000#4 ++ 0b0100#4) = .ok .serialize := by decide
theorem test_decodeTableWord : decodeTableWord 32 0x101 = some (.configure true) := by decide

/-! ### One command each (95_test_vectors.md) -/

/-- Table 2.2: 5 × 3 without alpha. -/
theorem test_configure_layout :
    (stepped (running 0x00000001 (dims 5 3) State.reset)).layout =
      { bytesPP := 3, stride := 16, hdrSize := 40, pixOffset := 54, fileSize := 102 } := by decide +kernel

/-- Vector P3: CANVAS 0, 5, 0 keeps the canvas; STATUS 0x12. -/
theorem test_configure_invalid :
    busRead (stepped (running 0x00000001 (dims 0 5) canvas21)) 0x04 = 0x00000012 := by decide +kernel

/-- Vector S3 on a 32-bit canvas: (0, 255, 128, 255). -/
theorem test_setPixel_clamps :
    pixRead (stepped (running 0x00000002 (place 0 0 (-5) 300 128 9999) canvas11a)) 0 0 =
      { r := 0, g := 255, b := 128, a := 255 } := by decide +kernel

/-- Vector P3: the alpha 7 is not stored on a 24-bit canvas. -/
theorem test_setPixel_drops_alpha :
    pixRead (stepped (running 0x00000002 (place 1 0 1 2 3 7) canvas21)) 1 0 =
      { r := 1, g := 2, b := 3, a := 255 } := by decide +kernel

/-- Vector P2: RESULT 0x281E140A. -/
theorem test_getPixel_result :
    (stepped (running 0x00000003 (place 0 0 0 0 0 0) canvas11a)).result = 0x281E140A := by decide +kernel

/-- Table 2.1: GET_PIXEL without a canvas; STATUS 0x30. -/
theorem test_getPixel_noCanvas :
    busRead (stepped (running 0x00000003 (place 0 0 0 0 0 0) State.reset)) 0x04 = 0x00000030 := by decide +kernel

/-- Vector S1, the whole file. -/
theorem test_serialize_file_S1 :
    fileList (stepped (running 0x00000004 Operands.reset canvas21)) =
      [0x42, 0x4D, 0x3E, 0, 0, 0, 0, 0, 0, 0, 0x36, 0, 0, 0, 0x28, 0]
      ++ [0, 0, 0x02, 0, 0, 0, 0xFF, 0xFF, 0xFF, 0xFF, 0x01, 0, 0x18, 0, 0, 0]
      ++ [0, 0, 0, 0, 0, 0, 0x13, 0x0B, 0, 0, 0x13, 0x0B, 0, 0, 0x02, 0]
      ++ [0, 0, 0, 0, 0, 0, 0, 0, 0xFF, 0, 0xFF, 0, 0, 0] := by decide +kernel

/-- Vector S2, byte by byte. -/
theorem test_serialize_file_S2 :
    (List.range 74).map (fileByte (stepped (running 0x00000004 Operands.reset canvas11a))) =
      ([0x42, 0x4D, 0x4A, 0, 0, 0, 0, 0, 0, 0, 0x46, 0, 0, 0, 0x38, 0]
      ++ [0, 0, 0x01, 0, 0, 0, 0xFF, 0xFF, 0xFF, 0xFF, 0x01, 0, 0x20, 0, 0, 0]
      ++ [0, 0, 0, 0, 0, 0, 0x13, 0x0B, 0, 0, 0x13, 0x0B, 0, 0, 0x01, 0]
      ++ [0, 0, 0, 0, 0, 0, 0, 0, 0xFF, 0, 0, 0xFF, 0, 0, 0xFF, 0]
      ++ [0, 0, 0, 0, 0, 0xFF, 0x1E, 0x14, 0x0A, 0x28]).map some := by decide +kernel

/-- Table 2.1: 0x102 is IllegalCommand, not NoCanvas; STATUS 0x40. -/
theorem test_illegal_status :
    busRead (stepped (running 0x00000102 Operands.reset State.reset)) 0x04 = 0x00000040 := by decide +kernel

/-- Vector P4: the CMD write during a SERIALIZE sets OVR; STATUS 0x0F. -/
theorem test_overrun_status :
    busRead (stepped (hosting [.setPixel] (streaming 0 canvas11a))) 0x04 = 0x0000000F := by decide +kernel

/-- R99, R60: a host read notes the register's value, the low address bits ignored. -/
theorem test_read_misaligned :
    (stepped (hosting [.rd 0x45] canvas21)).busLog = [{ addr := 0x45, data := 62 }] := by decide +kernel

/-- R230: reset in phase STREAM. -/
theorem test_reset_ends_stream :
    (stepped { streaming 5 canvas21 with sched := [.rst true] }).phase = .idle ∧
    (stepped { streaming 5 canvas21 with sched := [.rst true] }).regs.a = 255 := by decide +kernel

/-! ### Witnesses: states and operands that meet a statement's hypotheses together -/

theorem witness_LegalWordsAreTheFiveForms :
    (running 0x00000102 Operands.reset State.reset).RunsCommand ∧ ¬ ∃ i, decode 0x00000102 = .ok i := by
  refine ⟨by decide, fun ⟨i, h⟩ => ?_⟩
  rw [show decode 0x00000102 = .error .alphaNotAllowed by decide] at h
  cases h

theorem witness_StepRunsDecodedCommand :
    (running 0x00000101 (dims 1 1) State.reset).RunsCommand ∧ decode 0x00000101 = .ok (.configure true) := by
  decide

theorem witness_CmdWriteIssuesOrOverruns :
    (∀ s ∈ [streaming 0 canvas21, canvas21],
      nextMove (hosting [.wr Reg.cmd.offset 2] s) = .host ∧ (hosting [.wr Reg.cmd.offset 2] s).rst = false ∧
      (hosting [.wr Reg.cmd.offset 2] s).program = [.wr Reg.cmd.offset 2]) ∧
    (hosting [.wr Reg.cmd.offset 2] (streaming 0 canvas21)).busy = true ∧
    (hosting [.wr Reg.cmd.offset 2] canvas21).busy = false := by decide +kernel

theorem witness_OnlyCmdWriteStartsCommand :
    step (hosting [.wr 0x03 1] canvas21) = .next (stepped (hosting [.wr 0x03 1] canvas21)) ∧
    (hosting [.wr 0x03 1] canvas21).phase = .idle ∧ (stepped (hosting [.wr 0x03 1] canvas21)).phase ≠ .idle :=
  ⟨stepped_eq (by decide +kernel), by decide +kernel⟩

theorem witness_RunOverStandsStill : canvas21.RunOver ∧ canvas21.sched = [] := by decide +kernel

theorem witness_SlotAddressing :
    ((0x28 : BusAddr).toNat / 4 = (0x2B : BusAddr).toNat / 4 ∧ (0x28 : BusAddr) ≠ 0x2B) ∧
    0x48 ≤ (0x48 : BusAddr).toNat ∧ 0x48 ≤ (0xFF : BusAddr).toNat := by decide

theorem witness_OperandRegistersReadBack :
    Reg.widthIn ∈ [Reg.widthIn, .heightIn, .xIn, .yIn, .rIn, .gIn, .bIn, .aIn] ∧
    Reg.aIn ∈ [Reg.widthIn, .heightIn, .xIn, .yIn, .rIn, .gIn, .bIn, .aIn] ∧ Reg.result ≠ Reg.aIn := by decide

theorem witness_ReadOnlyRegistersIgnoreWrites :
    Reg.result ∈ [Reg.result, .curWidth, .curHeight, .bytesPP, .stride, .hdrSize, .pixOffset, .fileSize] ∧
    Reg.fileSize ∈ [Reg.result, .curWidth, .curHeight, .bytesPP, .stride, .hdrSize, .pixOffset, .fileSize] := by
  decide

theorem witness_OvrIsSticky :
    (streaming 0 canvas21).busy = true ∧ (0x00000008 : Word).getLsbD 3 = true ∧
    (0xFFFFFFF7 : Word).getLsbD 3 = false ∧
    applyMove .engine (streaming 0 canvas21) = .next (moved .engine (streaming 0 canvas21)) ∧
    applyMove (.transfer true) (offering 0 0x42 false canvas21) =
      .next (moved (.transfer true) (offering 0 0x42 false canvas21)) :=
  ⟨by decide +kernel, by decide, by decide, moved_eq (by decide +kernel), moved_eq (by decide +kernel)⟩

/-- The clauses of OvrIsSticky over whole steps: an overrun through address 3, the clear through address 7, a reset. -/
theorem witness_OvrIsSticky_steps :
    (∀ s ∈ [hosting [.wr 0x03 0] (streaming 0 canvas21), hosting [.wr 0x07 8] { canvas21 with ovr := true }],
      step s = .next (stepped s) ∧ nextMove s ≠ .rst true ∧ (stepped s).ovr ≠ s.ovr) ∧
    step { canvas21 with ovr := true, sched := [.rst true] } =
      .next (stepped { canvas21 with ovr := true, sched := [.rst true] }) := by
  have h : ∀ s ∈ [hosting [.wr 0x03 0] (streaming 0 canvas21), hosting [.wr 0x07 8] { canvas21 with ovr := true }],
      answers (nextMove s) (advance s) = true ∧ nextMove s ≠ .rst true ∧ (stepped s).ovr ≠ s.ovr := by
    decide +kernel
  exact ⟨fun s hs => ⟨stepped_eq (h s hs).1, (h s hs).2⟩, stepped_eq (by decide +kernel)⟩

/-- ERR changes by an issue, a command, the last transfer, a reset; the premises of the clauses on host writes. -/
theorem witness_ErrChangesByIssueCompletionOrReset :
    (∀ s ∈ [hosting [.getPixel] { canvas21 with err := .outOfBounds }, running 2 (place 2 0 0 0 0 0) canvas21,
        { offering 61 0x00 true canvas21 with err := .noCanvas },
        { canvas21 with err := .outOfBounds, sched := [.rst true] }],
      step s = .next (stepped s) ∧ (stepped s).err ≠ s.err) ∧
    4 ≤ (0x04 : BusAddr).toNat ∧ (streaming 0 canvas21).busy = true ∧ (0x03 : BusAddr).toNat < 4 ∧
    canvas21.busy = false := by
  have h : ∀ s ∈ [hosting [.getPixel] { canvas21 with err := .outOfBounds }, running 2 (place 2 0 0 0 0 0) canvas21,
        { offering 61 0x00 true canvas21 with err := .noCanvas },
        { canvas21 with err := .outOfBounds, sched := [.rst true] }],
      answers (nextMove s) (advance s) = true ∧ (stepped s).err ≠ s.err := by decide +kernel
  exact ⟨fun s hs => ⟨stepped_eq (h s hs).1, (h s hs).2⟩, by decide +kernel⟩

/-- Every writing statement, WR at an operand register and at CMD's misaligned addresses among them. -/
theorem witness_HostWritePerformsItsAccess :
    ∀ st ∈ [Stmt.configure, .configureA, .setPixel, .getPixel, .serialize, .clrOvr, .wr 0x24 40, .wr 0x01 4,
        .wr 0x03 4],
      nextMove (hosting [st] canvas21) = .host ∧ (hosting [st] canvas21).rst = false ∧
      (hosting [st] canvas21).program = [st] ∧
      (match st.encode with | .write _ _ => true | .read _ => false) = true := by decide +kernel

theorem witness_HostReadHasNoSideEffect :
    nextMove (hosting [.rd 0x04] canvas21) = .host ∧ (hosting [.rd 0x04] canvas21).rst = false ∧
    (hosting [.rd 0x04] canvas21).program = [.rd 0x04] := by decide +kernel

theorem witness_WaitPollsStatus :
    ∀ s ∈ [canvas21, streaming 0 canvas21],
      nextMove (hosting [.wait] s) = .host ∧ (hosting [.wait] s).rst = false ∧
      (hosting [.wait] s).program = [.wait] := by decide +kernel

theorem witness_StrideLaws : 1 ≤ (1 : Nat) ∧ 1 ≤ (32767 : Nat) := by decide

/-- The largest canvas of the reset parameters, a 24-bit and a 32-bit small one: the hypotheses of
LayoutRegistersAreExact, UniqueCountIsCardinality, FileHeaderBytes, DibHeaderFields, ChannelMaskBlock,
HeaderProperties, FileByteIndexesTheFile and SerializeStartsStream. -/
theorem witness_canvases :
    (∀ s ∈ [canvas21, canvas11a, constructCanvas 32767 32767 true State.reset],
      s.params.legal = true ∧ s.configured = true ∧ s.CanvasInv) ∧
    (canvas21.alpha = false ∧ canvas21.OpaqueInv) ∧ canvas11a.alpha = true := by decide +kernel

theorem witness_ClampLaws :
    ((0 : Int) ≤ 0 ∧ (0 : Int) ≤ 255 ∧ (255 : Int) ≤ 255) ∧ (-5 : Int) ≤ 300 := by decide

theorem witness_ConfigureConstructsCanvas :
    ∀ o ∈ [dims 1 1, dims 32767 1, dims 1 32767, dims 32767 32767],
      (running 0x00000001 o State.reset).params.legal = true ∧ (running 0x00000001 o State.reset).DimsOk := by
  decide +kernel

theorem witness_ConfigureRejectsBadDimensions :
    (running 1 (dims 0 1) canvas21).lc.ops.w.toInt ≤ 0 ∧ (running 1 (dims 1 0) canvas21).lc.ops.h.toInt ≤ 0 ∧
    (canvas21.params.wMax : Int) < (running 1 (dims 32768 1) canvas21).lc.ops.w.toInt ∧
    (canvas21.params.hMax : Int) < (running 1 (dims 1 32768) canvas21).lc.ops.h.toInt ∧
    2 ^ 31 ≤ (running 1 (dims (-2 ^ 31) 1) canvas21).lc.ops.w.toNat ∧
    2 ^ 31 ≤ (running 1 (dims 1 (-1)) canvas21).lc.ops.h.toNat := by decide +kernel

theorem witness_SetPixelStoresClampedPixel :
    (PixStore.WF (running 2 (place 1 0 (-5) 300 128 9999) canvas21).pix ∧
      (running 2 (place 1 0 (-5) 300 128 9999) canvas21).configured = true ∧
      (running 2 (place 1 0 (-5) 300 128 9999) canvas21).AccessOk) ∧
    (PixStore.WF (running 2 (place 0 0 1 2 3 4) canvas11a).pix ∧
      (running 2 (place 0 0 1 2 3 4) canvas11a).configured = true ∧
      (running 2 (place 0 0 1 2 3 4) canvas11a).AccessOk) := by decide +kernel

theorem witness_GetPixelReportsEntry :
    ((running 3 (place 1 0 0 0 0 0) canvas21).configured = true ∧ (running 3 (place 1 0 0 0 0 0) canvas21).AccessOk) ∧
    (running 3 (place 0 0 0 0 0 0) canvas11a).configured = true ∧
    (running 3 (place 0 0 0 0 0 0) canvas11a).AccessOk := by decide +kernel

theorem witness_PixelAccessOutOfBounds :
    canvas21.configured = true ∧ (running 2 (place (-1) 0 0 0 0 0) canvas21).lc.ops.x.toInt < 0 ∧
    (canvas21.curWidth.toNat : Int) ≤ (running 2 (place 2 0 0 0 0 0) canvas21).lc.ops.x.toInt ∧
    (running 2 (place 0 (-1) 0 0 0 0) canvas21).lc.ops.y.toInt < 0 ∧
    (canvas21.curHeight.toNat : Int) ≤ (running 2 (place 0 1 0 0 0 0) canvas21).lc.ops.y.toInt ∧
    2 ^ 31 ≤ (running 2 (place (-2 ^ 31) 0 0 0 0 0) canvas21).lc.ops.x.toNat ∧
    2 ^ 31 ≤ (running 2 (place 0 (-1) 0 0 0 0) canvas21).lc.ops.y.toNat := by decide +kernel

theorem witness_CanvasIsCheckedFirst :
    State.reset.configured = false ∧
    exec (.configure true) (running 0x00000101 (dims 1 1) State.reset) =
      .next (ran (.configure true) (running 0x00000101 (dims 1 1) State.reset)) :=
  ⟨rfl, ran_eq _ _⟩

/-- A SET_PIXEL at (1, 0), while the host waits to write a register. -/
def settingPixel : State := running 2 (place 1 0 1 2 3 4) (hosting [.wr 0x18 9] canvas21)

/-- A SET_PIXEL, then one step in which the host writes a register; the GET_PIXEL is on the state it leaves. -/
theorem witness_SetThenGetRoundTrip :
    (PixStore.WF settingPixel.pix ∧ settingPixel.configured = true ∧ settingPixel.AccessOk) ∧
    exec .setPixel settingPixel = .next (ran .setPixel settingPixel) ∧
    (∀ m < 1, ∀ v, core.run m (ran .setPixel settingPixel) = .next v →
      ¬ State.Disturbs v (opX settingPixel).toNat (opY settingPixel).toNat) ∧
    core.run 1 (ran .setPixel settingPixel) = .next (stepped (ran .setPixel settingPixel)) ∧
    (stepped (ran .setPixel settingPixel)).lc.ops.x = settingPixel.lc.ops.x ∧
    (stepped (ran .setPixel settingPixel)).lc.ops.y = settingPixel.lc.ops.y := by
  refine ⟨by decide +kernel, ran_eq _ _, fun m hm v hv => ?_, ?_, by decide +kernel, by decide +kernel⟩
  · obtain rfl : m = 0 := by omega
    cases hv
    have hm : nextMove (ran .setPixel settingPixel) = .host := by decide +kernel
    rintro (h | ⟨⟨h, -⟩, -⟩) <;> exact absurd (hm.symm.trans h) (by decide)
  · have h := stepped_eq (s := ran .setPixel settingPixel) (by decide +kernel)
    simp only [Host.Core.run, core, h]

/-- A byte offered to a sink that is not ready. -/
theorem witness_StreamHoldsUntilTransfer :
    let s : State := { offering 0 0x42 false canvas21 with outReady := false }
    s.out.valid = true ∧ s.phase = .stream ∧ step s = .next (stepped s) ∧ ¬ s.Transfers ∧ nextMove s ≠ .rst true :=
  ⟨rfl, rfl, stepped_eq (by decide +kernel), fun h => Bool.false_ne_true h.2.2.2.2, by decide +kernel⟩

/-- The first and the last byte of a file. -/
theorem witness_TransferEmitsByteAtCursor :
    ((offering 0 0x42 false canvas21).Inv ∧ (offering 0 0x42 false canvas21).Transfers) ∧
    (offering 61 0x00 true canvas21).Inv ∧ (offering 61 0x00 true canvas21).Transfers :=
  ⟨⟨inv_of_check (by decide +kernel), ⟨true, rfl⟩, by decide +kernel⟩, inv_of_check (by decide +kernel),
    ⟨true, rfl⟩, by decide +kernel⟩

theorem witness_StreamingTouchesOnlyTheStream :
    ((streaming 0 canvas21).phase = .stream ∧
      applyMove .engine (streaming 0 canvas21) = .next (moved .engine (streaming 0 canvas21))) ∧
    (offering 61 0x00 true canvas21).phase = .stream ∧
    applyMove (.transfer true) (offering 61 0x00 true canvas21) =
      .next (moved (.transfer true) (offering 61 0x00 true canvas21)) :=
  ⟨⟨rfl, moved_eq (by decide +kernel)⟩, rfl, moved_eq (by decide +kernel)⟩

/-- The last byte of a file, 61 bytes already taken. -/
theorem witness_SinkTakesTheFileInOrder :
    let s : State :=
      { offering 61 0x00 true canvas21 with sinkLog := ((fileTransfers (streaming 0 canvas21)).take 61).reverse }
    s.Inv ∧ s.TakenIsPrefix ∧ step s = .next (stepped s) ∧ s.phase = .stream ∧ (stepped s).phase = .idle ∧
    nextMove s ≠ .rst true :=
  ⟨inv_of_check (by decide +kernel), by decide +kernel, stepped_eq (by decide +kernel), rfl, by decide +kernel,
    by decide +kernel⟩

theorem witness_SerializeDeliversWholeFile :
    let s := running 4 Operands.reset canvas21
    s.Inv ∧ s.configured = true ∧ s.phase = .exec ∧ s.lc.word = encode .serialize ∧ s.rst = false ∧ s.sched = [] ∧
    s.outReady = true :=
  ⟨inv_of_check (by decide +kernel), by decide +kernel⟩

theorem witness_StalledSinkStaysBusy :
    let s : State := { streaming 0 canvas21 with outReady := false }
    s.phase = .stream ∧ s.outReady = false ∧ (∀ m ∈ s.sched, m ≠ .sink true ∧ m ≠ .rst true) ∧
    core.run 2 s = .next (stepped (stepped s)) := by
  refine ⟨rfl, rfl, by decide +kernel, ?_⟩
  have h1 := stepped_eq (s := { streaming 0 canvas21 with outReady := false }) (by decide +kernel)
  have h2 := stepped_eq (s := stepped { streaming 0 canvas21 with outReady := false }) (by decide +kernel)
  simp only [Host.Core.run, core, h1, h2]

theorem witness_ErrorPriority :
    ∀ s ∈ [running 0x00000001 (dims 1 1) State.reset, running 0x00000101 (dims 0 1) State.reset,
        running 0x00000002 (place 2 0 0 0 0 0) canvas21, running 0x00000003 (place 1 0 0 0 0 0) canvas21,
        running 0x00000004 Operands.reset State.reset, running 0x00000102 Operands.reset canvas21],
      s.RunsCommand ∧ s.err = .ok := by decide +kernel

theorem witness_ErrorsChangeNothingElse :
    let s := running 2 (place 2 0 0 0 0 0) canvas21
    s.RunsCommand ∧ s.err = .ok ∧ step s = .next (stepped s) ∧ (stepped s).err ≠ .ok :=
  ⟨by decide +kernel, rfl, stepped_eq (by decide +kernel), by decide +kernel⟩

theorem witness_ConfiguredIsSetByConfigureOnly :
    let s := running 1 (dims 1 1) State.reset
    let r : State := { canvas21 with sched := [.rst true] }
    (step s = .next (stepped s) ∧ nextMove s ≠ .rst true ∧ s.ConfiguresWith false) ∧
    step r = .next (stepped r) ∧ nextMove r = .rst true :=
  ⟨⟨stepped_eq (by decide +kernel), by decide +kernel, by decide +kernel⟩, stepped_eq (by decide +kernel), rfl⟩

/-- A GET_PIXEL on a canvas: it configures nothing. -/
theorem witness_CanvasRegistersAreConfiguresAlone :
    let s := running 3 (place 0 0 0 0 0 0) canvas21
    step s = .next (stepped s) ∧ nextMove s ≠ .rst true ∧ ¬ ∃ al, s.ConfiguresWith al := by
  refine ⟨stepped_eq (by decide +kernel), by decide +kernel, ?_⟩
  rintro ⟨al, -, h, -⟩
  have h' : decode 3 = .ok (.configure al) := h
  rw [show decode 3 = .ok .getPixel by decide] at h'
  cases h'

theorem witness_ResultIsGetPixelsAlone :
    let s := running 2 (place 0 0 0 0 0 0) canvas21
    let g := running 3 (place 0 0 0 0 0 0) canvas21
    (step s = .next (stepped s) ∧ nextMove s ≠ .rst true ∧ ¬ s.GetsPixel) ∧
    step g = .next (stepped g) ∧ g.GetsPixel :=
  ⟨⟨stepped_eq (by decide +kernel), by decide +kernel⟩, stepped_eq (by decide +kernel), by decide +kernel⟩

theorem witness_OperandRegistersAreTheHosts :
    let s := hosting [.wr 0x27 7] canvas21
    step s = .next (stepped s) ∧ (stepped s).regs ≠ s.regs ∧ nextMove s ≠ .rst true :=
  ⟨stepped_eq (by decide +kernel), by decide +kernel⟩

theorem witness_RunningCommandIgnoresOperandWrites :
    let s := running 2 (place 0 0 1 2 3 4) canvas21
    s.phase ≠ .idle ∧ 0x08 ≤ (0x08 : BusAddr).toNat ∧ applyMove .engine s = .next (moved .engine s) :=
  ⟨by decide +kernel, by decide, moved_eq (by decide +kernel)⟩

/-- A SET_PIXEL at (1, 0), and a CONFIGURE that clears it. -/
theorem witness_PixelStoreIsCommandsAlone :
    ∀ s ∈ [running 2 (place 1 0 1 2 3 4) canvas21, running 1 (dims 2 1) canvas21],
      step s = .next (stepped s) ∧ nextMove s ≠ .rst true ∧ pixGet (stepped s).pix 1 ≠ pixGet s.pix 1 := by
  have h : ∀ s ∈ [running 2 (place 1 0 1 2 3 4) canvas21, running 1 (dims 2 1) canvas21],
      answers (nextMove s) (advance s) = true ∧ nextMove s ≠ .rst true ∧
      pixGet (stepped s).pix 1 ≠ pixGet s.pix 1 := by decide +kernel
  exact fun s hs => ⟨stepped_eq (h s hs).1, (h s hs).2⟩

/-- A transfer at offset 0, and a SERIALIZE after an earlier one. -/
theorem witness_CursorAdvancesByOne :
    ∀ s ∈ [offering 0 0x42 false canvas21, { running 4 Operands.reset canvas21 with k := 62 }],
      s.Inv ∧ step s = .next (stepped s) ∧ nextMove s ≠ .rst true ∧ (stepped s).k ≠ s.k := by
  have h : ∀ s ∈ [offering 0 0x42 false canvas21, { running 4 Operands.reset canvas21 with k := 62 }],
      invCheck s = true ∧ answers (nextMove s) (advance s) = true ∧ nextMove s ≠ .rst true ∧ (stepped s).k ≠ s.k := by
    decide +kernel
  exact fun s hs => ⟨inv_of_check (h s hs).1, stepped_eq (h s hs).2.1, (h s hs).2.2⟩

theorem witness_ResetHolds :
    let s := holdReset canvas21
    let r : State := { holdReset canvas21 with sched := [.rst false] }
    (s.rst = true ∧ s.AtReset ∧ nextMove s ≠ .rst false) ∧
    nextMove { streaming 5 canvas21 with sched := [.rst true] } = .rst true ∧
    (r.rst = true ∧ r.AtReset ∧ nextMove r = .rst false) := by decide +kernel

theorem witness_ResetValues : nextMove { canvas21 with sched := [.rst true] } = .rst true := rfl

/-- The hypotheses of LayoutFollowsCanvas, OpaqueOn24BitCanvas, StepKeepsInvariant, StepAlwaysAnswers and
ParametersNeverChange. -/
theorem witness_StepKeepsInvariant :
    let s := running 1 (dims 5 3) canvas21
    s.Inv ∧ step s = .next (stepped s) :=
  ⟨inv_of_check (by decide +kernel), stepped_eq (by decide +kernel)⟩

/-- Two states that differ in an entry off the canvas. -/
theorem witness_UnseenEntriesAreNeverObserved :
    let s := running 4 Operands.reset canvas21
    let t : State := { s with pix := canvas21.pix ++ [(2, { r := 7, g := 7, b := 7, a := 7 })] }
    SeenAlike s t ∧ s ≠ t ∧ s.params.legal = true ∧ s.CanvasInv ∧ step s = .next (stepped s) := by
  refine ⟨⟨rfl, by decide +kernel, by decide +kernel, by decide +kernel⟩, by decide +kernel, by decide +kernel,
    by decide +kernel, stepped_eq (by decide +kernel)⟩

end Sys2Proof.Tests
end

/-! The scope's statements: the layout registers in 32-bit arithmetic (O17), and the machine's invariant (O56). -/

namespace Sys2Proof.Machine

/-! ### The open parameters bound the layout (R7, R119) -/

theorem legal_params_iff (p : Config.Params) :
    p.legal = true ↔ (1 ≤ p.wMax ∧ p.wMax ≤ 2 ^ 31 - 1) ∧ (1 ≤ p.hMax ∧ p.hMax ≤ 2 ^ 31 - 1) ∧
      70 + p.hMax * (4 * p.wMax) ≤ 2 ^ 32 - 1 := by
  have hrow : (4 * p.wMax + 3) / 4 * 4 = 4 * p.wMax := by omega
  simp only [Config.Params.legal, Config.Params.widthOk, Config.Params.heightOk, Config.Params.sizeOk, hrow,
    Bool.and_eq_true, decide_eq_true_eq, and_assoc]

theorem bpp_le_four (al : Bool) : bpp al ≤ 4 := by cases al <;> decide

theorem pixelOffset_bounds (al : Bool) : 54 ≤ pixelOffset al ∧ pixelOffset al ≤ 70 := by cases al <;> decide

theorem stride_le (w : Nat) (al : Bool) : stride w al ≤ 4 * w := by
  cases al <;> simp only [stride, bpp, if_true, Bool.false_eq_true, if_false] <;> omega

/-- R7's third condition is what makes the largest file's size fit in 32 bits (R119). -/
theorem fileSize_lt {p : Config.Params} {w h : Nat} (hp : p.legal = true) (hw : w ≤ p.wMax) (hh : h ≤ p.hMax)
    (al : Bool) : fileSize w h al < 2 ^ 32 := by
  obtain ⟨-, -, hsize⟩ := (legal_params_iff p).mp hp
  have hrows : h * stride w al ≤ p.hMax * (4 * p.wMax) :=
    Nat.mul_le_mul hh ((stride_le w al).trans (Nat.mul_le_mul_left 4 hw))
  have hoff := (pixelOffset_bounds al).2
  simp only [fileSize]
  omega

/-- The byte count of a row, before and after it is rounded up, fits in 32 bits. -/
theorem width_mul_bpp_lt {p : Config.Params} {w : Nat} (hp : p.legal = true) (hw : w ≤ p.wMax) (al : Bool) :
    w * bpp al + 3 < 2 ^ 32 := by
  obtain ⟨-, ⟨hh, -⟩, hsize⟩ := (legal_params_iff p).mp hp
  have hrow : w * bpp al ≤ p.wMax * 4 := Nat.mul_le_mul hw (bpp_le_four al)
  have hmax : 1 * (4 * p.wMax) ≤ p.hMax * (4 * p.wMax) := Nat.mul_le_mul_right _ hh
  omega

theorem stride_lt {p : Config.Params} {w : Nat} (hp : p.legal = true) (hw : w ≤ p.wMax) (al : Bool) :
    stride w al < 2 ^ 32 := by
  have := width_mul_bpp_lt hp hw al
  simp only [stride]
  omega

/-- A number that fits in 32 bits is its register's value (R12). -/
theorem toNat_word_ofNat {n : Nat} (h : n < 2 ^ 32) : (BitVec.ofNat 32 n).toNat = n := by
  rw [BitVec.toNat_ofNat, Nat.mod_eq_of_lt h]

/-- AND NOT 3 on words is rounding down to a multiple of 4 (R112). -/
theorem toNat_and_not_three (x : Word) : (x &&& ~~~(3 : Word)).toNat = x.toNat / 4 * 4 := by
  have hmask : ~~~(3 : Word) = BitVec.allOnes 32 <<< 2 := by decide
  rw [hmask, ← BitVec.shiftLeft_ushiftRight, BitVec.toNat_shiftLeft, BitVec.toNat_ushiftRight, Nat.shiftLeft_eq,
    Nat.shiftRight_eq_div_pow]
  omega

/-! ### The layout registers of a canvas, as numbers (R35, R121) -/

section
variable {s : State} (hc : s.CanvasLegal)
include hc

theorem State.CanvasLegal.bytesPP_toNat : s.layout.bytesPP.toNat = bpp s.alpha := by
  obtain ⟨-, -, hl⟩ := hc
  rw [hl]; cases s.alpha <;> rfl

theorem State.CanvasLegal.hdrSize_toNat : s.layout.hdrSize.toNat = headerSize s.alpha := by
  obtain ⟨-, -, hl⟩ := hc
  rw [hl]; cases s.alpha <;> rfl

theorem State.CanvasLegal.pixOffset_toNat : s.layout.pixOffset.toNat = pixelOffset s.alpha := by
  obtain ⟨-, -, hl⟩ := hc
  rw [hl]; cases s.alpha <;> rfl

theorem State.CanvasLegal.stride_toNat (hp : s.params.legal = true) :
    s.layout.stride.toNat = stride s.curWidth.toNat s.alpha := by
  obtain ⟨⟨-, hw⟩, -, hl⟩ := hc
  rw [hl]
  exact toNat_word_ofNat (stride_lt hp hw _)

theorem State.CanvasLegal.fileSize_toNat (hp : s.params.legal = true) :
    s.layout.fileSize.toNat = fileSize s.curWidth.toNat s.curHeight.toNat s.alpha := by
  obtain ⟨⟨-, hw⟩, ⟨-, hh⟩, hl⟩ := hc
  rw [hl]
  exact toNat_word_ofNat (fileSize_lt hp hw hh _)

/-! ### The register-level formulas (R112, R119) -/

theorem State.CanvasLegal.stride_eq_word (hp : s.params.legal = true) :
    s.layout.stride = (s.curWidth * s.layout.bytesPP + 3) &&& ~~~(3 : Word) := by
  have hrow : s.curWidth.toNat * bpp s.alpha + 3 < 2 ^ 32 :=
    have ⟨⟨_, hw⟩, _⟩ := hc
    width_mul_bpp_lt hp hw _
  have hsum : (s.curWidth * s.layout.bytesPP + 3).toNat = s.curWidth.toNat * bpp s.alpha + 3 := by
    rw [BitVec.toNat_add, BitVec.toNat_mul, hc.bytesPP_toNat, Nat.mod_add_mod]
    exact Nat.mod_eq_of_lt hrow
  apply BitVec.eq_of_toNat_eq
  rw [toNat_and_not_three, hsum, hc.stride_toNat hp, stride]

theorem State.CanvasLegal.fileSize_eq_sum (hp : s.params.legal = true) :
    s.layout.fileSize.toNat = s.layout.pixOffset.toNat + s.curHeight.toNat * s.layout.stride.toNat := by
  rw [hc.fileSize_toNat hp, hc.pixOffset_toNat, hc.stride_toNat hp, fileSize]

theorem State.CanvasLegal.fileSize_eq_word (hp : s.params.legal = true) :
    s.layout.fileSize = s.layout.pixOffset + s.curHeight * s.layout.stride := by
  apply BitVec.eq_of_toNat_eq
  rw [BitVec.toNat_add, BitVec.toNat_mul, Nat.add_mod_mod, ← hc.fileSize_eq_sum hp]
  exact (Nat.mod_eq_of_lt s.layout.fileSize.isLt).symm

end

/-- Settles O17: legal parameters keep every intermediate sum below 2^32, so no word operation wraps. -/
theorem layoutRegistersAreExact : Obligations.LayoutRegistersAreExact := by
  intro s hp hconf hi
  have hc : s.CanvasLegal := hi.1 hconf
  refine ⟨hc.bytesPP_toNat, hc.stride_eq_word hp, ?_, hc.hdrSize_toNat, ?_, hc.fileSize_eq_word hp,
    hc.fileSize_eq_sum hp⟩
  · rw [hc.stride_toNat hp, hc.bytesPP_toNat, stride]
  · rw [hc.pixOffset_toNat, hc.hdrSize_toNat, pixelOffset]

end Sys2Proof.Machine

namespace Sys2Proof.Machine

/-! ### The word of a decoded command (R90, R96) -/

theorem joinFields_splitWord (v : Word) : joinFields (splitWord v) = v := by
  refine BitVec.eq_of_getLsbD_eq fun i hi => ?_
  simp only [joinFields, splitWord, BitVec.getLsbD_append, BitVec.getLsbD_extractLsb']
  grind

/-- Fields that the decoder accepts are those of the command it answers. -/
theorem fields_of_decodeFields {f : CmdFields} {i : Instr} (h : decodeFields f = .ok i) : f = i.fields := by
  obtain ⟨op, rsv0, alpha, rsv1⟩ := f
  have hofBool : ∀ a : BitVec 1, a = BitVec.ofBool (a == 1) := by decide
  simp only [decodeFields] at h
  iterate 4 (split at h; next => cases h)
  next hop hrsv0 hrsv1 halpha =>
    simp only [CmdFields.opAssigned, Bool.not_eq_false, Bool.or_eq_true, beq_iff_eq, or_assoc] at hop
    simp only [CmdFields.alphaAllowed, Bool.not_eq_false, Bool.or_eq_true, beq_iff_eq] at halpha
    obtain rfl : rsv0 = 0 := not_not.mp hrsv0
    obtain rfl : rsv1 = 0 := not_not.mp hrsv1
    rcases hop with rfl | rfl | rfl | rfl
    · cases h; rw [Instr.fields, ← hofBool]
    all_goals
      obtain rfl : alpha = 0 := halpha.resolve_right (by decide)
      cases h; rfl

theorem word_of_decode {v : Word} {i : Instr} (h : decode v = .ok i) : v = encode i := by
  rw [encode, ← fields_of_decodeFields h, joinFields_splitWord]

/-! ### The colour count fits in 32 bits (R160) -/

theorem distinctCount_le_length (ps : List Pixel) : distinctCount ps ≤ ps.length := by
  induction ps with
  | nil => exact Nat.le_refl 0
  | cons p ps ih =>
    simp only [distinctCount, List.length_cons]
    split <;> omega

theorem length_canvasPixels (s : State) : (canvasPixels s).length = s.curHeight.toNat * s.curWidth.toNat := by
  simp only [canvasPixels, List.length_flatMap, List.length_map, List.length_range, List.map_const',
    List.sum_replicate, smul_eq_mul]

theorem State.CanvasLegal.uniqueCount_lt {s : State} (hc : s.CanvasLegal) (hp : s.params.legal = true) :
    uniqueCount s < 2 ^ 32 := by
  obtain ⟨⟨-, hw⟩, ⟨-, hh⟩, -⟩ := hc
  obtain ⟨-, -, hsize⟩ := (legal_params_iff s.params).mp hp
  have hcount : uniqueCount s ≤ s.params.hMax * (4 * s.params.wMax) := calc
    uniqueCount s ≤ (canvasPixels s).length := distinctCount_le_length _
    _ = s.curHeight.toNat * s.curWidth.toNat := length_canvasPixels s
    _ ≤ s.params.hMax * (4 * s.params.wMax) := Nat.mul_le_mul hh (by omega)
  omega

theorem State.CanvasLegal.fileSize_pos {s : State} (hc : s.CanvasLegal) (hp : s.params.legal = true) :
    0 < s.layout.fileSize.toNat := by
  have hoff := (pixelOffset_bounds s.alpha).1
  rw [hc.fileSize_toNat hp, fileSize]
  omega

/-! ### What the operations establish -/

/-- The number a signed operand spells, 0 when it is negative, fits in 32 bits (R92). -/
theorem toNat_toInt_lt (w : Word) : w.toInt.toNat < 2 ^ 32 := by
  have := w.toInt_lt
  omega

/-- CONFIGURE's dimensions are in range and the canvas registers hold them (R110, R116). -/
theorem constructCanvas_legal {s : State} (hd : s.DimsOk) (al : Bool) :
    (constructCanvas (opWidth s).toNat (opHeight s).toNat al s).CanvasLegal := by
  obtain ⟨⟨hw, hwm⟩, hh, hhm⟩ := hd
  have hcw : (BitVec.ofNat 32 (opWidth s).toNat).toNat = (opWidth s).toNat := toNat_word_ofNat (toNat_toInt_lt _)
  have hch : (BitVec.ofNat 32 (opHeight s).toNat).toNat = (opHeight s).toNat := toNat_word_ofNat (toNat_toInt_lt _)
  simp only [State.CanvasLegal, constructCanvas_curWidth, constructCanvas_curHeight, constructCanvas_params,
    constructCanvas_layout, constructCanvas_alpha, hcw, hch, and_true]
  simp only [opWidth, opHeight]
  omega

/-- An entry in bounds lies in the W_MAX × H_MAX array (R37, R133). -/
theorem State.CanvasLegal.accessed_in_array {s : State} (hc : s.CanvasLegal) (ha : s.AccessOk) :
    pixCol (pixAddr (opX s).toNat (opY s).toNat) < s.params.wMax ∧
    pixRow (pixAddr (opX s).toNat (opY s).toNat) < s.params.hMax := by
  obtain ⟨⟨-, hw⟩, ⟨-, hh⟩, -⟩ := hc
  obtain ⟨⟨hx0, hx⟩, hy0, hy⟩ := ha
  have hx32 : (opX s).toNat < 2 ^ 32 := toNat_toInt_lt _
  rw [pixCol_pixAddr hx32, pixRow_pixAddr hx32]
  simp only [opX, opY]
  omega

/-- On a 24-bit canvas SET_PIXEL stores alpha 255 (R135). -/
theorem opPixel_alpha {s : State} (h : s.alpha = false) : (opPixel s).a = 255 := by
  simp only [opPixel, h, Bool.false_eq_true, if_false]

/-- Every entry of a w × h canvas reads as the default pixel once it is cleared (R116). -/
theorem pixGet_pixClear_pixAddr (m : PixStore) {w h x y : Nat} (hx : x < w) (hx' : x < 2 ^ 32) (hy : y < h) :
    pixGet (pixClear w h m) (pixAddr x y) = defaultPixel :=
  pixGet_pixClear_on m (by simp only [onCanvas_pixAddr hx', hx, hy, decide_true, Bool.and_self])

/-- A transfer before the last leaves the cursor inside the file: K + 1 does not wrap (R43). -/
theorem cursor_succ_lt {k fs : Word} (hk : k.toNat < fs.toNat) (hne : k + 1 ≠ fs) : (k + 1).toNat < fs.toNat := by
  bv_omega

/-! ### Every effect of a step keeps each part of the invariant

In each lemma the last case stands for the effects that leave alone all the fields its part speaks of. -/

/-- W_MAX and H_MAX never change (log entry 2). -/
theorem StepEffect.params_eq {s t : State} (e : StepEffect s t) : t.params = s.params := by cases e <;> rfl

/-- R33, R35: CONFIGURE writes the canvas and layout registers together, a reset clears them together. -/
theorem StepEffect.keeps_canvasInv {s t : State} (e : StepEffect s t) (hi : s.CanvasInv) : t.CanvasInv := by
  cases e with
  | configured al hc =>
    obtain ⟨-, -, hd⟩ := hc
    exact ⟨fun _ => constructCanvas_legal (s := advance s) hd al, nofun⟩
  | resetAsserted => exact ⟨nofun, fun _ => ⟨rfl, rfl, rfl, rfl⟩⟩
  | _ => exact hi

/-- R37: CONFIGURE only removes listed entries; SET_PIXEL lists one in bounds of the canvas, so of the array. -/
theorem StepEffect.keeps_storeInv {s t : State} (e : StepEffect s t) (hc : s.CanvasInv) (hi : s.StoreInv) :
    t.StoreInv := by
  cases e with
  | configured => exact ⟨pixClear_wf hi.1 _ _, fun e he => hi.2 e (mem_pixClear he)⟩
  | pixelSet _ _ hconf ha =>
    refine ⟨pixPut_wf hi.1 _ _, fun e he => ?_⟩
    rcases mem_pixPut he with rfl | he
    · exact (hc.1 hconf).accessed_in_array ha
    · exact hi.2 e he
  | resetAsserted => exact ⟨reset_pix_wf, nofun⟩
  | _ => exact hi

/-- R39: CONFIGURE makes the whole canvas opaque, and SET_PIXEL stores alpha 255 on a 24-bit canvas. -/
theorem StepEffect.keeps_opaqueInv {s t : State} (e : StepEffect s t) (hwf : PixStore.WF s.pix) (hi : s.OpaqueInv) :
    t.OpaqueInv := by
  cases e with
  | configured al =>
    intro _ _ y hy x hx
    have hdef := pixGet_pixClear_pixAddr s.pix (w := (opWidth s).toNat) (h := (opHeight s).toNat)
      (hx.trans_le (Nat.mod_le _ _)) (hx.trans (BitVec.isLt _)) (hy.trans_le (Nat.mod_le _ _))
    exact congrArg Pixel.a hdef
  | pixelSet =>
    intro hconf hal y hy x hx
    change (pixGet (pixPut s.pix (pixAddr (opX s).toNat (opY s).toNat) (opPixel s)) (pixAddr x y)).a = 255
    by_cases hxy : pixAddr x y = pixAddr (opX s).toNat (opY s).toNat
    · rw [hxy, pixGet_pixPut_same hwf, opPixel_alpha (s := s) hal]
    · rw [pixGet_pixPut_other _ _ hxy]
      exact hi hconf hal y hy x hx
  | resetAsserted => exact nofun
  | _ => exact hi

/-- R41, R241: issue writes LC whole and clears ERR; an error is reported in phase IDLE only. -/
theorem StepEffect.keeps_issueInv {s t : State} (e : StepEffect s t) (hi : s.IssueInv) : t.IssueInv := by
  obtain ⟨hop, herr⟩ := hi
  cases e with
  | issued => exact ⟨rfl, fun _ => rfl⟩
  | commandError | configured | pixelSet | pixelGot | lastTransfer => exact ⟨hop, fun h => absurd rfl h⟩
  | streamStarted rc =>
    obtain ⟨-, hexec, -⟩ := rc
    exact ⟨hop, fun _ => herr (by rw [hexec]; nofun)⟩
  | resetAsserted => exact ⟨rfl, fun _ => rfl⟩
  | _ => exact ⟨hop, herr⟩

/-- R42, R43, R172: a SERIALIZE starts inside its file, and a transfer that does not end it stays inside. -/
theorem StepEffect.keeps_streamInv {s t : State} (e : StepEffect s t) (hp : s.params.legal = true)
    (hc : s.CanvasInv) (hi : s.StreamInv) : t.StreamInv := by
  cases e with
  | issued | commandError | configured | pixelSet | pixelGot | lastTransfer | resetAsserted => exact nofun
  | streamStarted _ hdec hconf =>
    have hcl : s.CanvasLegal := hc.1 hconf
    exact fun _ => ⟨hconf, word_of_decode hdec, hcl.fileSize_pos hp, toNat_word_ofNat (hcl.uniqueCount_lt hp)⟩
  | transferHeld _ _ hne | transferLowered _ hne =>
    intro hstream
    obtain ⟨hconf, hword, hk, hn⟩ := hi hstream
    exact ⟨hconf, hword, cursor_succ_lt hk hne, hn⟩
  | _ => exact hi

/-- OUT_VALID is low outside phase STREAM (R45, R170). -/
theorem State.PortInv.of_not_stream {s t : State} (hi : s.PortInv) (hs : s.phase ≠ .stream)
    (hv : t.out.valid = s.out.valid) : t.PortInv :=
  fun h => absurd (hi (hv ▸ h)).1 hs

/-- R45, R170: OUT_VALID rises with the byte at the cursor, and phase STREAM is left with OUT_VALID low. -/
theorem StepEffect.keeps_portInv {s t : State} (e : StepEffect s t) (hi : s.PortInv) : t.PortInv := by
  cases e with
  | issued _ _ _ _ _ hidle => exact hi.of_not_stream (by rw [hidle]; nofun) rfl
  | commandError _ rc | pixelSet rc | streamStarted rc =>
    obtain ⟨-, hexec, -⟩ := rc
    exact hi.of_not_stream (by rw [hexec]; nofun) rfl
  | configured _ hg | pixelGot hg =>
    obtain ⟨⟨-, hexec, -⟩, -⟩ := hg
    exact hi.of_not_stream (by rw [hexec]; nofun) rfl
  | validRaised b _ _ hstream _ hb => exact fun _ => ⟨hstream, hb, rfl⟩
  | transferHeld b tr _ hb =>
    obtain ⟨-, -, hstream, -⟩ := tr
    exact fun _ => ⟨hstream, hb, rfl⟩
  | lastTransfer | transferLowered | resetAsserted => exact nofun
  | _ => exact hi

/-- Nothing is claimed of a state out of reset (R230). -/
theorem State.ResetInv.of_released {t : State} (h : t.rst = false) : t.ResetInv :=
  fun hr => absurd hr (by rw [h]; nofun)

/-- R230: with RST asserted only the host's own data, OUT_READY and RST itself can move. -/
theorem StepEffect.keeps_resetInv {s t : State} (e : StepEffect s t) (hi : s.ResetInv) : t.ResetInv := by
  cases e with
  | hostNote | sinkDrove =>
    intro hr
    rw [hi hr]; rfl
  | operandWrite _ _ _ _ hw | ovrCleared _ _ _ hw | overrun _ _ _ hw | issued _ _ _ hw =>
    obtain ⟨-, hr, -⟩ := hw
    exact .of_released hr
  | commandError _ rc | pixelSet rc | streamStarted rc =>
    obtain ⟨-, -, hr⟩ := rc
    exact .of_released hr
  | configured _ hg | pixelGot hg =>
    obtain ⟨⟨-, -, hr⟩, -⟩ := hg
    exact .of_released hr
  | validRaised _ _ hr => exact .of_released hr
  | lastTransfer tr | transferHeld _ tr | transferLowered tr =>
    obtain ⟨-, hr, -⟩ := tr
    exact .of_released hr
  | resetAsserted => exact fun _ => rfl
  | resetReleased => exact .of_released rfl

theorem StepEffect.keeps_inv {s t : State} (e : StepEffect s t) (hi : s.Inv) : t.Inv := by
  obtain ⟨hp, hcanvas, hstore, hopaque, hissue, hstream, hport, hreset⟩ := hi
  exact ⟨e.params_eq ▸ hp, e.keeps_canvasInv hcanvas, e.keeps_storeInv hcanvas hstore,
    e.keeps_opaqueInv hstore.1 hopaque, e.keeps_issueInv hissue, e.keeps_streamInv hp hcanvas hstream,
    e.keeps_portInv hport, e.keeps_resetInv hreset⟩

/-- Settles O56, part by part over the effects a step can have. -/
theorem stepKeepsInvariant : Obligations.StepKeepsInvariant :=
  fun _ _ hi h => (step_effect h).keeps_inv hi

end Sys2Proof.Machine

/-! The rules that the statements about the register map and about every step rest on: the map, what a host write does, the
commands by their guards. -/

namespace Sys2Proof.Machine

/-! ### The register map (R22, R60, R67) -/

theorem slotOf_toNat (a : BusAddr) : (slotOf a).toNat = a.toNat / 4 := by
  have := a.isLt
  rw [slotOf, BitVec.extractLsb'_toNat, Nat.shiftRight_eq_div_pow]
  omega

/-- The map fills its slots with no register twice. -/
theorem regAt_eq_some_iff (a : BusAddr) (r : Reg) : regAt a = some r ↔ a.toNat / 4 = r.offset.toNat / 4 := by
  have hslot : Reg.all[r.offset.toNat / 4]? = some r := by cases r <;> rfl
  have hlt : r.offset.toNat / 4 < Reg.all.length := (List.getElem?_eq_some_iff.mp hslot).1
  rw [regAt, slotOf_toNat, ← hslot, eq_comm, List.getElem?_inj hlt (by decide), eq_comm]

theorem regAt_offset (r : Reg) : regAt r.offset = some r := (regAt_eq_some_iff _ _).mpr rfl

theorem regAt_eq_none {a : BusAddr} (h : 0x48 ≤ a.toNat) : regAt a = none := by
  rw [regAt, slotOf_toNat, List.getElem?_eq_none_iff]
  change 18 ≤ a.toNat / 4
  omega

theorem regAt_congr {a b : BusAddr} (h : a.toNat / 4 = b.toNat / 4) : regAt a = regAt b := by
  rw [regAt, regAt, slotOf_toNat, slotOf_toNat, h]

theorem regAt_eq_cmd_iff (a : BusAddr) : regAt a = some .cmd ↔ a.toNat < 4 := by
  rw [regAt_eq_some_iff]
  change a.toNat / 4 = 0 ↔ _
  omega

theorem regAt_eq_status_iff (a : BusAddr) : regAt a = some .status ↔ 4 ≤ a.toNat ∧ a.toNat < 8 := by
  rw [regAt_eq_some_iff]
  change a.toNat / 4 = 1 ↔ _
  omega

theorem busRead_of_regAt {s : State} {a : BusAddr} {r : Reg} (h : regAt a = some r) : busRead s a = readReg s r := by
  simp only [busRead, h]

theorem busWrite_of_regAt {s : State} {a : BusAddr} {r : Reg} (v : Word) (h : regAt a = some r) :
    busWrite s a v = writeReg v s r := by
  simp only [busWrite, h]

theorem busRead_offset (s : State) (r : Reg) : busRead s r.offset = readReg s r := busRead_of_regAt (regAt_offset r)

theorem busWrite_offset (s : State) (r : Reg) (v : Word) : busWrite s r.offset v = writeReg v s r :=
  busWrite_of_regAt v (regAt_offset r)

/-- An operand register, or a read-only one, has the slot of an address at or above 0x08. -/
theorem busWrite_eq_setRegs {a : BusAddr} (ha : 0x08 ≤ a.toNat) (v : Word) :
    ∃ f : Operands → Operands, ∀ s, busWrite s a v = { s with regs := f s.regs } := by
  cases hr : regAt a with
  | none => exact ⟨id, fun s => by simp only [busWrite, hr, id]⟩
  | some r =>
    simp only [busWrite, hr]
    cases r with
    | cmd => have := (regAt_eq_cmd_iff a).mp hr; omega
    | status => have := (regAt_eq_status_iff a).mp hr; omega
    | widthIn => exact ⟨fun o => { o with w := v }, fun _ => rfl⟩
    | heightIn => exact ⟨fun o => { o with h := v }, fun _ => rfl⟩
    | xIn => exact ⟨fun o => { o with x := v }, fun _ => rfl⟩
    | yIn => exact ⟨fun o => { o with y := v }, fun _ => rfl⟩
    | rIn => exact ⟨fun o => { o with r := v }, fun _ => rfl⟩
    | gIn => exact ⟨fun o => { o with g := v }, fun _ => rfl⟩
    | bIn => exact ⟨fun o => { o with b := v }, fun _ => rfl⟩
    | aIn => exact ⟨fun o => { o with a := v }, fun _ => rfl⟩
    | result | curWidth | curHeight | bytesPP | stride | hdrSize | pixOffset | fileSize => exact ⟨id, fun _ => rfl⟩

/-- No host write reaches a canvas or layout register, RESULT, a pixel or the stream. -/
theorem busWrite_frame (s : State) (a : BusAddr) (v : Word) :
    ∃ regs ovr lc err phase, busWrite s a v =
      { s with regs := regs, ovr := ovr, lc := lc, err := err, phase := phase } := by
  rcases busWrite_cases s a v with h | ⟨regs, h⟩ | ⟨-, -, h⟩ | ⟨-, -, h⟩ | ⟨-, -, h⟩ <;> rw [h] <;>
    exact ⟨_, _, _, _, _, rfl⟩

/-- The step of a host write is that write (R68). -/
theorem step_of_hostWrites {s : State} {a : BusAddr} {v : Word} {rest : List Stmt} (h : s.HostWrites a v rest) :
    step s = .next (busWrite { advance s with program := rest } a v) := by
  obtain ⟨hm, hr, st, hp, he⟩ := h
  have hw : st ≠ .wait := by rintro rfl; cases he
  rw [step_eq, hm, applyMove_host, hostMove_access (s := advance s) hp hw, he]
  simp only [performAccess, advance_rst, hr, Bool.false_eq_true, if_false]

/-! ### Commands, by their guards (R96, R203) -/

theorem decode_encode (i : Instr) : decode (encode i) = .ok i := by
  cases i with
  | configure al => cases al <;> rfl
  | setPixel | getPixel | serialize => rfl

theorem runCommand_of_decode {s : State} {i : Instr} (h : decode s.lc.word = .ok i) : runCommand s = exec i s := by
  simp only [runCommand, h]

/-- A step in phase EXEC runs the command that LC.word decodes to. -/
theorem step_of_runsCommand {s : State} {i : Instr} (rc : s.RunsCommand) (hi : decode s.lc.word = .ok i) :
    step s = exec i (advance s) := by
  obtain ⟨hm, hp, hr⟩ := rc
  have hp' : (advance s).phase = .exec := hp
  rw [step_eq, hm, applyMove_engine (by rw [advance_rst, hr])]
  simp only [engineMove, hp', runCommand_of_decode (s := advance s) hi]

theorem exec_configure_of_dimsOk {s : State} (al : Bool) (h : s.DimsOk) : exec (.configure al) s =
    .next (complete (constructCanvas (opWidth s).toNat (opHeight s).toNat al s)) := by
  rcases execConfigure_cases al s with ⟨-, h'⟩ | ⟨hn, -⟩
  · exact h'
  · exact absurd h hn

theorem exec_configure_of_not_dimsOk {s : State} (al : Bool) (h : ¬ s.DimsOk) :
    exec (.configure al) s = .next (raiseError .invalidDimension s) := by
  rcases execConfigure_cases al s with ⟨hd, -⟩ | ⟨-, h'⟩
  · exact absurd hd h
  · exact h'

theorem exec_setPixel_of_error {s : State} {c : ErrCode} (h : accessError s = some c) :
    exec .setPixel s = .next (raiseError c s) := by
  simp only [exec, execSetPixel, h]

theorem exec_setPixel_of_noError {s : State} (h : accessError s = none) : exec .setPixel s =
    .next (complete (pixWrite (opX s).toNat (opY s).toNat (opPixel s) s)) := by
  simp only [exec, execSetPixel, h]

theorem exec_getPixel_of_error {s : State} {c : ErrCode} (h : accessError s = some c) :
    exec .getPixel s = .next (raiseError c s) := by
  simp only [exec, execGetPixel, h]

theorem exec_getPixel_of_noError {s : State} (h : accessError s = none) : exec .getPixel s =
    .next (complete { s with result := packPixel (reported s (pixRead s (opX s).toNat (opY s).toNat)) }) := by
  simp only [exec, execGetPixel, h]

theorem accessError_eq_none_iff (s : State) : accessError s = none ↔ s.configured = true ∧ s.AccessOk := by
  rcases accessError_cases s with ⟨hc, h⟩ | ⟨-, ha, h⟩ | ⟨hc, ha, h⟩
  · exact iff_of_false (by rw [h]; nofun) (by rw [hc]; nofun)
  · exact iff_of_false (by rw [h]; nofun) (fun ⟨_, ha'⟩ => ha ha')
  · exact iff_of_true h ⟨hc, ha⟩

theorem exec_serialize_of_configured {s : State} (h : s.configured = true) :
    exec .serialize s = .next (startStream s) := by
  simp only [exec, execSerialize, h, Bool.true_eq_false, if_false]

theorem exec_serialize_of_not_configured {s : State} (h : s.configured = false) :
    exec .serialize s = .next (raiseError .noCanvas s) := by
  simp only [exec, execSerialize, h, if_true]

end Sys2Proof.Machine

/-! Two states alike but for unseen pixel store entries make the same step (O58). -/

namespace Sys2Proof.Machine

/-! ### Two states alike but for unseen entries (R38) -/

section
variable {s t : State}

theorem SeenAlike.eq_withPix (h : SeenAlike s t) : t = { s with pix := t.pix } := h.1

/-- An operation that writes neither the pixel store nor the canvas registers, and does the same to both states. -/
theorem SeenAlike.of_untouched {s' t' : State} (h : SeenAlike s t) (ht : t' = { s' with pix := t.pix })
    (hp : s'.pix = s.pix) (hc : s'.configured = s.configured) (hw : s'.curWidth = s.curWidth)
    (hh : s'.curHeight = s.curHeight) : SeenAlike s' t' := by
  obtain ⟨-, hs, htw, hseen⟩ := h
  subst ht
  refine ⟨rfl, hp ▸ hs, htw, fun hc' y hy x hx => ?_⟩
  have := hseen (hc ▸ hc') y (hh ▸ hy) x (hw ▸ hx)
  simpa only [pixRead, hp] using this

theorem SeenAlike.after_advance (h : SeenAlike s t) : SeenAlike (advance s) (advance t) :=
  h.of_untouched (by rw [h.eq_withPix]; rfl) rfl rfl rfl rfl

/-- Whoever moves next does not depend on the pixel store. -/
theorem SeenAlike.nextMove_eq (h : SeenAlike s t) : nextMove t = nextMove s := by rw [h.eq_withPix]; rfl

theorem SeenAlike.accessError_eq (h : SeenAlike s t) : accessError t = accessError s := by rw [h.eq_withPix]; rfl

/-! #### What is read of the pixel store is seen -/

theorem SeenAlike.pixRead_eq (h : SeenAlike s t) (hc : s.configured = true) {x y : Nat} (hx : x < s.curWidth.toNat)
    (hy : y < s.curHeight.toNat) : pixRead t x y = pixRead s x y := by
  obtain ⟨-, -, -, hseen⟩ := h
  exact (hseen hc y hy x hx).symm

theorem SeenAlike.uniqueCount_eq (h : SeenAlike s t) (hc : s.configured = true) : uniqueCount t = uniqueCount s := by
  have hw : t.curWidth = s.curWidth := by rw [h.eq_withPix]
  have hh : t.curHeight = s.curHeight := by rw [h.eq_withPix]
  have hpix : canvasPixels t = canvasPixels s := by
    rw [canvasPixels, canvasPixels, hw, hh]
    refine List.flatMap_congr fun y hy => List.map_congr_left fun x hx => ?_
    exact h.pixRead_eq hc (List.mem_range.mp hx) (List.mem_range.mp hy)
  rw [uniqueCount, uniqueCount, hpix]

theorem SeenAlike.rowByte_eq (h : SeenAlike s t) (hc : s.configured = true) {y : Nat} (hy : y < s.curHeight.toNat)
    (o : Nat) : rowByte t y o = rowByte s y o := by
  have hw : t.curWidth = s.curWidth := by rw [h.eq_withPix]
  have hl : t.layout = s.layout := by rw [h.eq_withPix]
  rw [rowByte, rowByte, hw, hl]
  split
  · next ho => rw [h.pixRead_eq hc (Nat.div_lt_of_lt_mul (Nat.mul_comm .. ▸ ho)) hy]
  · rfl

/-- A byte of the file is a header byte, or a byte of a row of the canvas; with no canvas there is none. -/
theorem SeenAlike.fileByte_eq (h : SeenAlike s t) (hp : s.params.legal = true) (hi : s.CanvasInv) (k : Nat) :
    fileByte t k = fileByte s k := by
  have hl : t.layout = s.layout := by rw [h.eq_withPix]
  have hhead : headerBytes t = headerBytes s := by rw [h.eq_withPix]; rfl
  rw [fileByte, fileByte, hl, hhead]
  split
  case isFalse => rfl
  case isTrue hk =>
  split
  case isTrue => rfl
  case isFalse hoff =>
  cases hc : s.configured with
  | false =>
    obtain ⟨-, -, -, hnone⟩ := hi.2 hc
    rw [hnone] at hk
    exact absurd hk (Nat.not_lt_zero k)
  | true =>
    have hsize := (hi.1 hc).fileSize_eq_sum hp
    have hrow : (k - s.layout.pixOffset.toNat) / s.layout.stride.toNat < s.curHeight.toNat :=
      Nat.div_lt_of_lt_mul (by rw [Nat.mul_comm]; omega)
    rw [pixelByte, pixelByte, hl, h.rowByte_eq hc hrow]

end

/-! #### Outcomes -/

/-- If the first outcome is a next state, so is the second, alike. -/
def OutcomesAlike (o o' : Host.Outcome State Fault Refusal) : Prop :=
  ∀ s', o = .next s' → ∃ t', o' = .next t' ∧ SeenAlike s' t'

theorem OutcomesAlike.of_next {s t : State} (h : SeenAlike s t) : OutcomesAlike (.next s) (.next t) := by
  intro s' hs
  cases hs
  exact ⟨t, rfl, h⟩

theorem OutcomesAlike.of_fault (r : Fault) (o' : Host.Outcome State Fault Refusal) : OutcomesAlike (.fault r) o' := by
  intro s' hs
  cases hs

section
variable {s t : State}

theorem SeenAlike.after_raiseError (h : SeenAlike s t) (c : ErrCode) : SeenAlike (raiseError c s) (raiseError c t) :=
  h.of_untouched (by rw [h.eq_withPix]; rfl) rfl rfl rfl rfl

theorem SeenAlike.after_complete (h : SeenAlike s t) : SeenAlike (complete s) (complete t) :=
  h.of_untouched (by rw [h.eq_withPix]; rfl) rfl rfl rfl rfl

theorem SeenAlike.withResult (h : SeenAlike s t) (v : Word) : SeenAlike { s with result := v } { t with result := v } :=
  h.of_untouched (by rw [h.eq_withPix]) rfl rfl rfl rfl

theorem SeenAlike.withOut (h : SeenAlike s t) (o : OutPort) : SeenAlike { s with out := o } { t with out := o } :=
  h.of_untouched (by rw [h.eq_withPix]) rfl rfl rfl rfl

theorem SeenAlike.withStream (h : SeenAlike s t) (n k : Word) (p : Phase) :
    SeenAlike { s with n := n, k := k, phase := p } { t with n := n, k := k, phase := p } :=
  h.of_untouched (by rw [h.eq_withPix]) rfl rfl rfl rfl

/-! #### The commands -/

/-- The entries of a new canvas are the default pixel in both (R116). -/
theorem SeenAlike.after_constructCanvas (h : SeenAlike s t) (w hgt : Nat) (al : Bool) :
    SeenAlike (constructCanvas w hgt al s) (constructCanvas w hgt al t) := by
  obtain ⟨ht, hs, htw, -⟩ := h
  refine ⟨by rw [ht]; rfl, pixClear_wf hs _ _, pixClear_wf htw _ _, fun _ y hy x hx => ?_⟩
  have hdef (m : PixStore) : pixGet (pixClear w hgt m) (pixAddr x y) = defaultPixel :=
    pixGet_pixClear_pixAddr m (hx.trans_le (Nat.mod_le _ _)) (hx.trans (BitVec.isLt _)) (hy.trans_le (Nat.mod_le _ _))
  exact (hdef s.pix).trans (hdef t.pix).symm

/-- A pixel write puts the same entry in both (R70). -/
theorem SeenAlike.after_pixWrite (h : SeenAlike s t) (x y : Nat) (p : Pixel) :
    SeenAlike (pixWrite x y p s) (pixWrite x y p t) := by
  obtain ⟨ht, hs, htw, hseen⟩ := h
  refine ⟨by rw [ht]; rfl, pixPut_wf hs _ _, pixPut_wf htw _ _, fun hc y' hy x' hx => ?_⟩
  simp only [pixRead, pixWrite_pix]
  by_cases ha : pixAddr x' y' = pixAddr x y
  · rw [ha, pixGet_pixPut_same hs, pixGet_pixPut_same htw]
  · rw [pixGet_pixPut_other _ _ ha, pixGet_pixPut_other _ _ ha]
    exact hseen hc y' hy x' hx

theorem SeenAlike.after_exec_configure (h : SeenAlike s t) (al : Bool) :
    OutcomesAlike (exec (.configure al) s) (exec (.configure al) t) := by
  have hdims : t.DimsOk ↔ s.DimsOk := by rw [h.eq_withPix]
  have hops : t.lc = s.lc := by rw [h.eq_withPix]
  by_cases hd : s.DimsOk
  · rw [exec_configure_of_dimsOk al hd, exec_configure_of_dimsOk al (hdims.mpr hd), opWidth, opHeight, opWidth,
      opHeight, hops]
    exact .of_next (h.after_constructCanvas _ _ al).after_complete
  · rw [exec_configure_of_not_dimsOk al hd, exec_configure_of_not_dimsOk al (mt hdims.mp hd)]
    exact .of_next (h.after_raiseError _)

theorem SeenAlike.after_exec_setPixel (h : SeenAlike s t) : OutcomesAlike (exec .setPixel s) (exec .setPixel t) := by
  cases he : accessError s with
  | some c =>
    rw [exec_setPixel_of_error he, exec_setPixel_of_error (h.accessError_eq.trans he)]
    exact .of_next (h.after_raiseError c)
  | none =>
    have hx : opX t = opX s := by rw [h.eq_withPix]; rfl
    have hy : opY t = opY s := by rw [h.eq_withPix]; rfl
    have hpix : opPixel t = opPixel s := by rw [h.eq_withPix]; rfl
    rw [exec_setPixel_of_noError he, exec_setPixel_of_noError (h.accessError_eq.trans he), hx, hy, hpix]
    exact .of_next (h.after_pixWrite _ _ _).after_complete

/-- GET_PIXEL reads an entry in bounds, which both states see alike (R133). -/
theorem SeenAlike.after_exec_getPixel (h : SeenAlike s t) : OutcomesAlike (exec .getPixel s) (exec .getPixel t) := by
  cases he : accessError s with
  | some c =>
    rw [exec_getPixel_of_error he, exec_getPixel_of_error (h.accessError_eq.trans he)]
    exact .of_next (h.after_raiseError c)
  | none =>
    obtain ⟨hc, ⟨hx0, hxw⟩, hy0, hyh⟩ := (accessError_eq_none_iff s).mp he
    have hx : opX t = opX s := by rw [h.eq_withPix]; rfl
    have hy : opY t = opY s := by rw [h.eq_withPix]; rfl
    have hal : t.alpha = s.alpha := by rw [h.eq_withPix]
    have hread : reported t (pixRead t (opX s).toNat (opY s).toNat) =
        reported s (pixRead s (opX s).toNat (opY s).toNat) := by
      rw [reported, reported, hal, h.pixRead_eq hc (by simp only [opX]; omega) (by simp only [opY]; omega)]
    rw [exec_getPixel_of_noError he, exec_getPixel_of_noError (h.accessError_eq.trans he), hx, hy, hread]
    exact .of_next (h.withResult _).after_complete

theorem SeenAlike.after_exec_serialize (h : SeenAlike s t) : OutcomesAlike (exec .serialize s) (exec .serialize t) := by
  have hconf : t.configured = s.configured := by rw [h.eq_withPix]
  cases hc : s.configured with
  | false =>
    rw [exec_serialize_of_not_configured hc, exec_serialize_of_not_configured (hconf.trans hc)]
    exact .of_next (h.after_raiseError _)
  | true =>
    rw [exec_serialize_of_configured hc, exec_serialize_of_configured (hconf.trans hc), startStream, startStream,
      h.uniqueCount_eq hc]
    exact .of_next (h.withStream _ _ _)

theorem SeenAlike.after_exec (h : SeenAlike s t) (i : Instr) : OutcomesAlike (exec i s) (exec i t) := by
  cases i with
  | configure al => exact h.after_exec_configure al
  | setPixel => exact h.after_exec_setPixel
  | getPixel => exact h.after_exec_getPixel
  | serialize => exact h.after_exec_serialize

theorem SeenAlike.after_runCommand (h : SeenAlike s t) : OutcomesAlike (runCommand s) (runCommand t) := by
  have hlc : t.lc = s.lc := by rw [h.eq_withPix]
  rw [runCommand, runCommand, hlc]
  cases decode s.lc.word with
  | ok i => exact h.after_exec i
  | error => exact .of_next (h.after_raiseError _)

/-! #### The stream -/

theorem SeenAlike.after_driveByte (h : SeenAlike s t) (hp : s.params.legal = true) (hi : s.CanvasInv) :
    OutcomesAlike (driveByte s) (driveByte t) := by
  have hk : t.k = s.k := by rw [h.eq_withPix]
  have hl : t.layout = s.layout := by rw [h.eq_withPix]
  have hbyte : fileByte t t.k.toNat = fileByte s s.k.toNat := by rw [hk, h.fileByte_eq hp hi]
  rw [driveByte, driveByte, hbyte]
  cases fileByte s s.k.toNat with
  | some b =>
    have hlast : decide (t.k.toNat + 1 = t.layout.fileSize.toNat) =
        decide (s.k.toNat + 1 = s.layout.fileSize.toNat) := by rw [hk, hl]
    rw [hlast]
    exact .of_next (h.withOut _)
  | none => exact .of_fault _ _

theorem SeenAlike.after_engineMove (h : SeenAlike s t) (hp : s.params.legal = true) (hi : s.CanvasInv) :
    OutcomesAlike (engineMove s) (engineMove t) := by
  have hphase : t.phase = s.phase := by rw [h.eq_withPix]
  have hout : t.out = s.out := by rw [h.eq_withPix]
  rw [engineMove, engineMove, hphase]
  cases s.phase with
  | idle => exact .of_next h
  | exec => exact h.after_runCommand
  | stream =>
    simp only [raiseValid, hout]
    split
    · exact .of_next h
    · exact h.after_driveByte hp hi

theorem SeenAlike.after_emitByte (h : SeenAlike s t) : SeenAlike (emitByte s) (emitByte t) :=
  h.of_untouched (by rw [h.eq_withPix]; rfl) rfl rfl rfl rfl

theorem SeenAlike.after_emit (h : SeenAlike s t) (hp : s.params.legal = true) (hi : s.CanvasInv) (hold : Bool) :
    OutcomesAlike (afterTransfer hold s) (afterTransfer hold t) := by
  have hk : t.k = s.k := by rw [h.eq_withPix]
  have hl : t.layout = s.layout := by rw [h.eq_withPix]
  rw [afterTransfer, afterTransfer, hk, hl]
  split
  · exact .of_next h.after_complete
  · split
    · exact h.after_driveByte hp hi
    · exact .of_next h

theorem SeenAlike.after_transferMove (h : SeenAlike s t) (hp : s.params.legal = true) (hi : s.CanvasInv) (hold : Bool) :
    OutcomesAlike (transferMove hold s) (transferMove hold t) := by
  have hcan : canTransfer t = canTransfer s := by rw [h.eq_withPix]; rfl
  rw [transferMove, transferMove, hcan]
  split
  · exact h.after_emitByte.after_emit hp hi hold
  · exact .of_next h

/-! #### The host -/

theorem SeenAlike.busData_eq (h : SeenAlike s t) (a : BusAddr) : busData t a = busData s a := by rw [h.eq_withPix]; rfl

theorem SeenAlike.after_writeReg (h : SeenAlike s t) (v : Word) (r : Reg) :
    SeenAlike (writeReg v s r) (writeReg v t r) := by
  have hbusy : t.busy = s.busy := by rw [h.eq_withPix]; rfl
  cases r with
  | cmd =>
    simp only [writeReg, issue, hbusy]
    split
    · exact h.of_untouched (by rw [h.eq_withPix]) rfl rfl rfl rfl
    · exact h.of_untouched (by rw [h.eq_withPix]; rfl) rfl rfl rfl rfl
  | status =>
    simp only [writeReg, writeStatus]
    split
    · exact h.of_untouched (by rw [h.eq_withPix]) rfl rfl rfl rfl
    · exact h
  | _ => exact h.of_untouched (by rw [h.eq_withPix]; rfl) rfl rfl rfl rfl

theorem SeenAlike.after_busWrite (h : SeenAlike s t) (a : BusAddr) (v : Word) :
    SeenAlike (busWrite s a v) (busWrite t a v) := by
  cases hr : regAt a with
  | none => simp only [busWrite, hr]; exact h
  | some r =>
    rw [busWrite_of_regAt v hr, busWrite_of_regAt v hr]
    exact h.after_writeReg v r

theorem SeenAlike.withProgram (h : SeenAlike s t) (p : List Stmt) :
    SeenAlike { s with program := p } { t with program := p } :=
  h.of_untouched (by rw [h.eq_withPix]) rfl rfl rfl rfl

theorem SeenAlike.after_logRead (h : SeenAlike s t) (a : BusAddr) (v : Word) :
    SeenAlike (logRead a v s) (logRead a v t) :=
  h.of_untouched (by rw [h.eq_withPix]; rfl) rfl rfl rfl rfl

theorem SeenAlike.after_performAccess (h : SeenAlike s t) (op : BusOp) :
    SeenAlike (performAccess op s) (performAccess op t) := by
  have hrst : t.rst = s.rst := by rw [h.eq_withPix]
  cases op with
  | read a => simp only [performAccess, h.busData_eq]; exact h.after_logRead _ _
  | write a v =>
    simp only [performAccess, hrst]
    split
    · exact h
    · exact h.after_busWrite a v

theorem SeenAlike.after_performWait (h : SeenAlike s t) (rest : List Stmt) :
    SeenAlike (performWait rest s) (performWait rest t) := by
  simp only [performWait, h.busData_eq]
  split
  · exact h.after_logRead _ _
  · exact (h.after_logRead _ _).withProgram rest

theorem SeenAlike.after_hostMove (h : SeenAlike s t) : SeenAlike (hostMove s) (hostMove t) := by
  have hprog : t.program = s.program := by rw [h.eq_withPix]
  cases hp : s.program with
  | nil => simp only [hostMove, hprog, hp]; exact h
  | cons st rest =>
    by_cases hw : st = .wait
    · subst hw
      simp only [hostMove, hprog, hp]
      exact h.after_performWait rest
    · rw [hostMove_access hp hw, hostMove_access (hprog.trans hp) hw]
      exact (h.withProgram rest).after_performAccess st.encode

/-! #### A step -/

theorem SeenAlike.after_holdReset (h : SeenAlike s t) : SeenAlike (holdReset s) (holdReset t) :=
  ⟨by rw [h.eq_withPix]; rfl, reset_pix_wf, reset_pix_wf, nofun⟩

theorem SeenAlike.after_releaseReset (h : SeenAlike s t) : SeenAlike (releaseReset s) (releaseReset t) :=
  h.of_untouched (by rw [h.eq_withPix]; rfl) rfl rfl rfl rfl

theorem SeenAlike.after_applyMove (h : SeenAlike s t) (hp : s.params.legal = true) (hi : s.CanvasInv) (m : Move) :
    OutcomesAlike (applyMove m s) (applyMove m t) := by
  have hrst : t.rst = s.rst := by rw [h.eq_withPix]
  cases m with
  | host => exact .of_next h.after_hostMove
  | engine =>
    simp only [applyMove, hrst]
    split
    · exact .of_next h
    · exact h.after_engineMove hp hi
  | transfer hold =>
    simp only [applyMove, hrst]
    split
    · exact .of_next h
    · exact h.after_transferMove hp hi hold
  | sink r => exact .of_next (h.of_untouched (by rw [h.eq_withPix]) rfl rfl rfl rfl)
  | rst asserted =>
    cases asserted with
    | true => exact .of_next h.after_holdReset
    | false => exact .of_next h.after_releaseReset

end

/-- Settles O58: each move reads the pixel store on the canvas only and does the same to both states. -/
theorem unseenEntriesAreNeverObserved : Obligations.UnseenEntriesAreNeverObserved := by
  intro s t s' h hp hi hs
  rw [step_eq] at hs
  rw [step_eq, h.nextMove_eq]
  exact h.after_advance.after_applyMove hp hi (nextMove s) s' hs

end Sys2Proof.Machine

/-! What the block's moves and every effect of a step change (O7, O13, O37, O43, O44, O47, O48, O49, O54, O55, O60). -/

namespace Sys2Proof.Machine

/-! ### The block's moves, by their guards (R40, R170) -/

section
variable {s t : State}

theorem runCommand_of_error {e : DecodeError} (h : decode s.lc.word = .error e) :
    runCommand s = .next (raiseError .illegalCommand s) := by
  simp only [runCommand, h]

theorem driveByte_of_fileByte {b : Byte} (h : fileByte s s.k.toNat = some b) : driveByte s = .next { s with
    out := { valid := true, data := b, last := decide (s.k.toNat + 1 = s.layout.fileSize.toNat) } } := by
  simp only [driveByte, h]

theorem engineMove_of_idle (h : s.phase = .idle) : engineMove s = .next s := by
  simp only [engineMove, h]

theorem engineMove_of_exec (h : s.phase = .exec) : engineMove s = runCommand s := by
  simp only [engineMove, h]

theorem engineMove_of_valid (h : s.phase = .stream) (hv : s.out.valid = true) : engineMove s = .next s := by
  simp only [engineMove, h, raiseValid, hv, if_true]

theorem engineMove_of_not_valid (h : s.phase = .stream) (hv : s.out.valid = false) : engineMove s = driveByte s := by
  simp only [engineMove, h, raiseValid, hv, Bool.false_eq_true, if_false]

theorem transferMove_of_not_canTransfer (hold : Bool) (h : canTransfer s = false) :
    transferMove hold s = .next s := by
  simp only [transferMove, h, Bool.false_eq_true, if_false]

theorem transferMove_of_canTransfer (hold : Bool) (h : canTransfer s = true) :
    transferMove hold s = afterTransfer hold (emitByte s) := by
  simp only [transferMove, h, if_true]

/-- Everything an engine move or a transfer can do when it answers a next state (R230). -/
theorem blockMove_cases {m : Move} (hm : m = .engine ∨ ∃ hold, m = .transfer hold) (h : applyMove m s = .next t) :
    (s.rst = true ∧ t = s) ∨ (s.rst = false ∧ m = .engine ∧ engineMove s = .next t) ∨
    (s.rst = false ∧ ∃ hold, m = .transfer hold ∧ transferMove hold s = .next t) := by
  rcases hm with rfl | ⟨hold, rfl⟩ <;> cases hr : s.rst
  · exact .inr (.inl ⟨rfl, rfl, applyMove_engine hr ▸ h⟩)
  · rw [applyMove_engine_reset hr] at h; cases h; exact .inl ⟨rfl, rfl⟩
  · exact .inr (.inr ⟨rfl, hold, rfl, applyMove_transfer hold hr ▸ h⟩)
  · rw [applyMove_transfer_reset hold hr] at h; cases h; exact .inl ⟨rfl, rfl⟩

end

/-! ### The block's moves and the registers that the host alone writes

`withHostSide` replaces the operand registers and OVR. No guard of a move reads them, so a hypothesis about `s` is one
about `s.withHostSide regs ovr`. -/

/-- The state with other operand registers and OVR. -/
def State.withHostSide (regs : Operands) (ovr : Bool) (s : State) : State := { s with regs := regs, ovr := ovr }

section
variable {s t : State}

theorem exec_withHostSide {i : Instr} (h : exec i s = .next t) (regs : Operands) (ovr : Bool) :
    exec i (s.withHostSide regs ovr) = .next (t.withHostSide regs ovr) := by
  cases i with
  | configure al =>
    rcases execConfigure_cases al s with ⟨hd, h'⟩ | ⟨hd, h'⟩ <;> rw [h'] at h <;> cases h
    · exact exec_configure_of_dimsOk al hd
    · exact exec_configure_of_not_dimsOk al hd
  | setPixel =>
    cases he : accessError s with
    | some c => rw [exec_setPixel_of_error he] at h; cases h; exact exec_setPixel_of_error he
    | none => rw [exec_setPixel_of_noError he] at h; cases h; exact exec_setPixel_of_noError he
  | getPixel =>
    cases he : accessError s with
    | some c => rw [exec_getPixel_of_error he] at h; cases h; exact exec_getPixel_of_error he
    | none => rw [exec_getPixel_of_noError he] at h; cases h; exact exec_getPixel_of_noError he
  | serialize =>
    rcases execSerialize_cases s with ⟨hc, h'⟩ | ⟨hc, h'⟩ <;> rw [h'] at h <;> cases h
    · exact exec_serialize_of_not_configured hc
    · exact exec_serialize_of_configured hc

theorem runCommand_withHostSide (h : runCommand s = .next t) (regs : Operands) (ovr : Bool) :
    runCommand (s.withHostSide regs ovr) = .next (t.withHostSide regs ovr) := by
  rcases runCommand_cases s with ⟨i, hi, h'⟩ | ⟨e, he, h'⟩ <;> rw [h'] at h
  · rw [runCommand_of_decode (s := s.withHostSide regs ovr) hi]
    exact exec_withHostSide h regs ovr
  · cases h; exact runCommand_of_error he

theorem driveByte_withHostSide (h : driveByte s = .next t) (regs : Operands) (ovr : Bool) :
    driveByte (s.withHostSide regs ovr) = .next (t.withHostSide regs ovr) := by
  rcases driveByte_cases s with ⟨b, hb, h'⟩ | ⟨-, h'⟩ <;> rw [h'] at h <;> cases h
  exact driveByte_of_fileByte hb

theorem engineMove_withHostSide (h : engineMove s = .next t) (regs : Operands) (ovr : Bool) :
    engineMove (s.withHostSide regs ovr) = .next (t.withHostSide regs ovr) := by
  rcases engineMove_cases s with ⟨hp, h'⟩ | ⟨hp, h'⟩ | ⟨hp, hv, h'⟩ | ⟨hp, hv, h'⟩ <;> rw [h'] at h
  · cases h; exact engineMove_of_idle hp
  · rw [engineMove_of_exec (s := s.withHostSide regs ovr) hp]
    exact runCommand_withHostSide h regs ovr
  · cases h; exact engineMove_of_valid hp hv
  · rw [engineMove_of_not_valid (s := s.withHostSide regs ovr) hp hv]
    exact driveByte_withHostSide h regs ovr

theorem afterTransfer_withHostSide {hold : Bool} (h : afterTransfer hold s = .next t) (regs : Operands) (ovr : Bool) :
    afterTransfer hold (s.withHostSide regs ovr) = .next (t.withHostSide regs ovr) := by
  rw [afterTransfer] at h ⊢
  split at h
  case isTrue hk => cases h; exact if_pos hk
  case isFalse hk =>
    refine (if_neg hk).trans ?_
    split at h
    · next hh => exact (if_pos hh).trans (driveByte_withHostSide h regs ovr)
    · next hh => cases h; exact if_neg hh

theorem transferMove_withHostSide {hold : Bool} (h : transferMove hold s = .next t) (regs : Operands) (ovr : Bool) :
    transferMove hold (s.withHostSide regs ovr) = .next (t.withHostSide regs ovr) := by
  cases hc : canTransfer s with
  | false =>
    rw [transferMove_of_not_canTransfer hold hc] at h; cases h
    exact transferMove_of_not_canTransfer hold hc
  | true =>
    rw [transferMove_of_canTransfer hold hc] at h
    rw [transferMove_of_canTransfer (s := s.withHostSide regs ovr) hold hc]
    exact afterTransfer_withHostSide (s := emitByte s) h regs ovr

/-- R41, R243: an engine move or a transfer does the same whatever the operand registers and OVR hold. -/
theorem blockMove_withHostSide {m : Move} (hm : m = .engine ∨ ∃ hold, m = .transfer hold)
    (h : applyMove m s = .next t) (regs : Operands) (ovr : Bool) :
    applyMove m (s.withHostSide regs ovr) = .next (t.withHostSide regs ovr) := by
  rcases blockMove_cases hm h with ⟨hr, rfl⟩ | ⟨hr, rfl, h'⟩ | ⟨hr, hold, rfl, h'⟩
  · rcases hm with rfl | ⟨hold, rfl⟩
    · exact applyMove_engine_reset hr
    · exact applyMove_transfer_reset hold hr
  · rw [applyMove_engine (s := s.withHostSide regs ovr) hr]
    exact engineMove_withHostSide h' regs ovr
  · rw [applyMove_transfer (s := s.withHostSide regs ovr) hold hr]
    exact transferMove_withHostSide h' regs ovr

/-- The engine and the transfers write no operand register and not OVR. -/
theorem blockMove_keeps_hostSide {m : Move} (hm : m = .engine ∨ ∃ hold, m = .transfer hold)
    (h : applyMove m s = .next t) : t.regs = s.regs ∧ t.ovr = s.ovr := by
  have hsame : applyMove m s = .next (t.withHostSide s.regs s.ovr) := blockMove_withHostSide hm h s.regs s.ovr
  rw [h, Host.Outcome.next.injEq] at hsame
  rw [hsame]
  exact ⟨rfl, rfl⟩

end

/-- Settles O47: a write at 0x08 or above moves operand registers only, which the block's moves do not read. -/
theorem runningCommandIgnoresOperandWrites : Obligations.RunningCommandIgnoresOperandWrites := by
  intro s t m a v _ hm ha h
  obtain ⟨f, hf⟩ := busWrite_eq_setRegs ha v
  obtain ⟨hregs, hovr⟩ := blockMove_keeps_hostSide hm h
  have hmove : applyMove m { s with regs := f s.regs } = .next (t.withHostSide (f s.regs) s.ovr) :=
    blockMove_withHostSide hm h (f s.regs) s.ovr
  rw [hf, hf, hmove, ← hregs, ← hovr]
  rfl

/-! ### In phase STREAM (R171) -/

section
variable {s t : State}

theorem driveByte_frame (h : driveByte s = .next t) : t = { s with out := t.out } := by
  rcases driveByte_cases s with ⟨b, -, h'⟩ | ⟨-, h'⟩ <;> rw [h'] at h <;> cases h
  rfl

theorem transferMove_frame {hold : Bool} (h : transferMove hold s = .next t) :
    t = { s with err := t.err, phase := t.phase, k := t.k, out := t.out, sinkLog := t.sinkLog } := by
  rcases transferMove_cases hold s with ⟨-, h'⟩ | ⟨-, -, h'⟩ | ⟨-, -, -, h'⟩ | ⟨-, -, -, h'⟩ <;> rw [h'] at h
  · cases h; rfl
  · cases h; rfl
  · rw [driveByte_frame h]; rfl
  · cases h; rfl

theorem engineMove_frame_of_stream (hp : s.phase = .stream) (h : engineMove s = .next t) :
    t = { s with out := t.out } := by
  rcases engineMove_cases s with ⟨hp', -⟩ | ⟨hp', -⟩ | ⟨-, -, h'⟩ | ⟨-, -, h'⟩
  · rw [hp] at hp'; cases hp'
  · rw [hp] at hp'; cases hp'
  · rw [h'] at h; cases h; rfl
  · rw [h'] at h; exact driveByte_frame h

end

/-- Settles O37, by the frames of the two moves. -/
theorem streamingTouchesOnlyTheStream : Obligations.StreamingTouchesOnlyTheStream := by
  intro s t m hp hm h
  rcases blockMove_cases hm h with ⟨-, rfl⟩ | ⟨-, -, h'⟩ | ⟨-, hold, -, h'⟩
  · rfl
  · rw [engineMove_frame_of_stream hp h']
  · exact transferMove_frame h'

/-! ### What one step changes, effect by effect

In each case analysis over `StepEffect` the last case stands for the effects that leave the field alone. -/

/-- Settles O7: of all effects only an accepted issue leaves phase IDLE, and it latches the word written. -/
theorem onlyCmdWriteStartsCommand : Obligations.OnlyCmdWriteStartsCommand := by
  intro s t h hidle hbusy
  have exec_absurd {P : Prop} (rc : s.RunsCommand) : P := by
    obtain ⟨-, hexec, -⟩ := rc
    rw [hidle] at hexec; cases hexec
  cases step_effect h with
  | issued a v p hw ha =>
    obtain ⟨hm, hr, st, hp, he⟩ := hw
    exact ⟨hm, hr, rfl, st, p, a, v, hp, he, (regAt_eq_cmd_iff a).mp ha, rfl⟩
  | streamStarted rc => exact exec_absurd rc
  | transferHeld _ tr | transferLowered tr =>
    obtain ⟨-, -, hstream, -⟩ := tr
    rw [hidle] at hstream; cases hstream
  | commandError | configured | pixelSet | pixelGot | lastTransfer | resetAsserted => exact absurd rfl hbusy
  | _ => exact absurd hidle hbusy

/-- Settles O13: OVR's two writers among the effects are the overrun and the STATUS write with bit 3. -/
theorem ovrIsSticky : Obligations.OvrIsSticky := by
  refine ⟨fun s v hb => ?_, fun s v hv => ?_, fun s v hv => ?_, fun s t m hm h => ?_, fun s t h hm hne => ?_,
    fun s t h hm => ?_, rfl⟩
  · rw [show (0x00 : BusAddr) = Reg.cmd.offset from rfl, busWrite_offset, writeReg, issue, if_pos hb]
  · rw [show (0x04 : BusAddr) = Reg.status.offset from rfl, busWrite_offset, writeReg, writeStatus, if_pos hv]
  · rw [show (0x04 : BusAddr) = Reg.status.offset from rfl, busWrite_offset, writeReg, writeStatus, hv]; rfl
  · exact (blockMove_keeps_hostSide hm h).2
  · cases step_effect h with
    | ovrCleared a v p hw ha hv =>
      obtain ⟨ha4, ha8⟩ := (regAt_eq_status_iff a).mp ha
      exact ⟨a, v, p, hw, .inr ⟨rfl, ha4, ha8, hv⟩⟩
    | overrun a v p hw ha hp =>
      exact ⟨a, v, p, hw, .inl ⟨rfl, (regAt_eq_cmd_iff a).mp ha, decide_eq_true hp⟩⟩
    | resetAsserted hrst => exact absurd hrst hm
    | _ => exact absurd rfl hne
  · rw [step_eq, hm, applyMove_assert] at h; cases h; rfl

theorem busWrite_err_of_accepted {s : State} {a : BusAddr} (ha : a.toNat < 4) (hb : s.busy = false) (v : Word) :
    (busWrite s a v).err = .ok := by
  rw [busWrite_of_regAt v ((regAt_eq_cmd_iff a).mpr ha), writeReg, issue, hb]
  rfl

theorem busWrite_err_of_not_accepted {s : State} {a : BusAddr} (h : 4 ≤ a.toNat ∨ s.busy = true) (v : Word) :
    (busWrite s a v).err = s.err := by
  rcases busWrite_cases s a v with h' | ⟨regs, h'⟩ | ⟨-, -, h'⟩ | ⟨-, -, h'⟩ | ⟨ha, hp, -⟩
  case inr.inr.inr.inr =>
    have ha4 := (regAt_eq_cmd_iff a).mp ha
    rcases h with h | h
    · omega
    · exact absurd hp (of_decide_eq_true h)
  all_goals rw [h']

/-- Settles O60: ERR's writers among the effects are the issue, the completions and the reset. -/
theorem errChangesByIssueCompletionOrReset : Obligations.ErrChangesByIssueCompletionOrReset := by
  refine ⟨fun s t h hne => ?_, fun s a v h => busWrite_err_of_not_accepted h v,
    fun s a v ha hb => busWrite_err_of_accepted ha hb v, rfl⟩
  cases step_effect h with
  | issued a v p hw ha hp => exact .inl ⟨hp, rfl, rfl, a, v, p, hw, (regAt_eq_cmd_iff a).mp ha⟩
  | commandError _ rc | pixelSet rc => exact .inr (.inl ⟨rc, rfl⟩)
  | configured _ hg | pixelGot hg => exact .inr (.inl ⟨hg.1, rfl⟩)
  | lastTransfer tr hk => exact .inr (.inr (.inl ⟨tr, hk, rfl, rfl⟩))
  | resetAsserted hm => exact .inr (.inr (.inr ⟨hm, rfl⟩))
  | _ => exact absurd rfl hne

/-- A step that is a successful CONFIGURE answers the new canvas. -/
theorem State.ConfiguresWith.step_eq {s : State} {al : Bool} (h : s.ConfiguresWith al) :
    step s = .next (complete (constructCanvas (opWidth s).toNat (opHeight s).toNat al (advance s))) := by
  obtain ⟨rc, hi, hd⟩ := h
  rw [step_of_runsCommand rc hi]
  exact exec_configure_of_dimsOk (s := advance s) al hd

/-- A step that is a successful GET_PIXEL writes RESULT whole. -/
theorem State.GetsPixel.step_eq {s : State} (h : s.GetsPixel) :
    step s = .next (complete { advance s with
      result := packPixel (reported s (pixRead s (opX s).toNat (opY s).toNat)) }) := by
  obtain ⟨rc, hi, hc, ha⟩ := h
  rw [step_of_runsCommand rc hi]
  exact exec_getPixel_of_noError ((accessError_eq_none_iff (advance s)).mpr ⟨hc, ha⟩)

/-- Settles O43: the effect of CONFIGURE sets CONFIGURED, and no effect but the reset clears it. -/
theorem configuredIsSetByConfigureOnly : Obligations.ConfiguredIsSetByConfigureOnly := by
  refine ⟨fun s t h hm => ⟨fun ht => ?_, fun hs => ?_⟩, fun s t h hm => ?_, fun s a v => ?_, rfl⟩
  · cases step_effect h with
    | configured al hg => exact .inr ⟨al, hg⟩
    | resetAsserted => cases ht
    | _ => exact .inl ht
  · rcases hs with hs | ⟨al, hg⟩
    · cases step_effect h with
      | configured => rfl
      | resetAsserted hrst => exact absurd hrst hm
      | _ => exact hs
    · rw [hg.step_eq] at h; cases h; rfl
  · rw [step_eq, hm, applyMove_assert] at h; cases h; rfl
  · obtain ⟨regs, ovr, lc, err, phase, h⟩ := busWrite_frame s a v
    rw [h]

/-- Settles O44: of all effects CONFIGURE and the reset alone write these registers. -/
theorem canvasRegistersAreConfiguresAlone : Obligations.CanvasRegistersAreConfiguresAlone := by
  intro s t h hm hno
  cases step_effect h with
  | configured al hg => exact absurd ⟨al, hg⟩ hno
  | resetAsserted hrst => exact absurd hrst hm
  | _ => exact ⟨rfl, rfl, rfl, rfl⟩

/-- Read as an unsigned number a word is no smaller than read as a signed one (R93). -/
theorem toNat_toInt_le (w : Word) : w.toInt.toNat ≤ w.toNat := by
  rw [BitVec.toInt_eq_toNat_cond]
  split <;> omega

/-- Settles O48: the two writers of the store among the effects are CONFIGURE and SET_PIXEL. -/
theorem pixelStoreIsCommandsAlone : Obligations.PixelStoreIsCommandsAlone := by
  intro s t h hm a hne
  cases step_effect h with
  | configured al hg =>
    have hon : onCanvas (opWidth s).toNat (opHeight s).toNat a = true := by
      by_contra hoff
      exact hne (pixGet_pixClear_off s.pix (Bool.eq_false_of_not_eq_true hoff))
    simp only [onCanvas, Bool.and_eq_true, decide_eq_true_eq] at hon
    obtain ⟨hcol, hrow⟩ := hon
    exact .inl ⟨al, hg, hcol.trans_le (toNat_toInt_le _), hrow.trans_le (toNat_toInt_le _)⟩
  | pixelSet rc hi hc ha =>
    refine .inr ⟨rc, hi, hc, ha, ?_⟩
    by_contra hother
    exact hne (pixGet_pixPut_other s.pix _ hother)
  | resetAsserted hrst => exact absurd hrst hm
  | _ => exact absurd rfl hne

/-- Settles O49: K's writers among the effects are the transfers and the start of a SERIALIZE. -/
theorem cursorAdvancesByOne : Obligations.CursorAdvancesByOne := by
  intro s t hi h hm hne
  obtain ⟨-, -, -, -, -, hstream, -⟩ := hi
  have advances (tr : s.Transfers) :
      s.Transfers ∧ (s.k + 1).toNat = s.k.toNat + 1 ∧ (s.k + 1).toNat ≤ s.layout.fileSize.toNat := by
    have ⟨_, _, hphase, _⟩ := tr
    obtain ⟨-, -, hk, -⟩ := hstream hphase
    exact ⟨tr, by bv_omega, by bv_omega⟩
  cases step_effect h with
  | lastTransfer tr => exact .inl (advances tr)
  | transferHeld _ tr => exact .inl (advances tr)
  | transferLowered tr => exact .inl (advances tr)
  | streamStarted rc hdec => exact .inr ⟨rc, hdec, rfl⟩
  | resetAsserted hrst => exact absurd hrst hm
  | _ => exact absurd rfl hne

/-- Settles O54, by the lemma over the effects that O56 rests on. -/
theorem layoutFollowsCanvas : Obligations.LayoutFollowsCanvas :=
  ⟨⟨nofun, fun _ => ⟨rfl, rfl, rfl, rfl⟩⟩, fun _ _ hi h => (step_effect h).keeps_canvasInv hi⟩

/-- Settles O55, by the lemma over the effects that O56 rests on. -/
theorem opaqueOn24BitCanvas : Obligations.OpaqueOn24BitCanvas :=
  ⟨nofun, fun _ _ hwf hi h => (step_effect h).keeps_opaqueInv hwf hi⟩

end Sys2Proof.Machine

/-! The operand registers, RESULT and the colour count (O24, O29, O45, O46). -/

namespace Sys2Proof.Machine

/-! ### The operand registers and the host (R29, R30) -/

/-- Only a write to one of the slots 0x08 to 0x27 reaches an operand register. -/
theorem busWrite_regs_of_not_operand {a : BusAddr} (ha : ¬ (0x08 ≤ a.toNat ∧ a.toNat < 0x28)) (s : State) (v : Word) :
    (busWrite s a v).regs = s.regs := by
  cases hr : regAt a with
  | none => simp only [busWrite, hr]
  | some r =>
    have hslot := (regAt_eq_some_iff a r).mp hr
    rw [busWrite_of_regAt v hr]
    cases r with
    | cmd => simp only [writeReg, issue]; split <;> rfl
    | status => simp only [writeReg, writeStatus]; split <;> rfl
    | widthIn | heightIn | xIn | yIn | rIn | gIn | bIn | aIn =>
      simp only [Reg.offset, BitVec.reduceToNat, Nat.reduceDiv] at hslot
      omega
    | result | curWidth | curHeight | bytesPP | stride | hdrSize | pixOffset | fileSize => rfl

/-- A statement that writes above STATUS is a WR: the commands and CLROVR write to CMD and STATUS (R99). -/
theorem eq_wr_of_encode {st : Stmt} {a : BusAddr} {v : Word} (he : st.encode = .write a v) (ha : 0x08 ≤ a.toNat) :
    ∃ w, st = .wr a w := by
  cases st with
  | wr a' w => cases he; exact ⟨w, rfl⟩
  | rd | wait => cases he
  | configure | configureA | setPixel | getPixel | serialize | clrOvr => cases he; exact absurd ha (by decide)

/-- Settles O46: among the effects an operand write and a reset change the operand registers. -/
theorem operandRegistersAreTheHosts : Obligations.OperandRegistersAreTheHosts := by
  intro s t h hne hm
  have write_operand {a : BusAddr} {v : Word} {rest : List Stmt} (hw : s.HostWrites a v rest) :
      nextMove s = .host ∧ s.rst = false ∧
      ∃ a v rest, s.program = .wr a v :: rest ∧ 0x08 ≤ a.toNat ∧ a.toNat < 0x28 := by
    rw [step_of_hostWrites hw] at h; cases h
    have ha : 0x08 ≤ a.toNat ∧ a.toNat < 0x28 := by
      by_contra ha
      exact hne (busWrite_regs_of_not_operand ha _ v)
    obtain ⟨hhost, hr, st, hp, he⟩ := hw
    obtain ⟨w, rfl⟩ := eq_wr_of_encode he ha.1
    exact ⟨hhost, hr, a, w, rest, hp, ha⟩
  cases step_effect h with
  | operandWrite _ _ _ _ hw => exact write_operand hw
  | resetAsserted hrst => exact absurd hrst hm
  | _ => exact absurd rfl hne

/-! ### RESULT's packing (R140) -/

/-- The pixel whose packing is a given word. -/
def unpackPixel (v : Word) : Pixel :=
  { r := v.extractLsb' 0 8, g := v.extractLsb' 8 8, b := v.extractLsb' 16 8, a := v.extractLsb' 24 8 }

theorem unpackPixel_packPixel (p : Pixel) : unpackPixel (packPixel p) = p := by
  obtain ⟨r, g, b, a⟩ := p
  rw [unpackPixel, Pixel.mk.injEq]
  refine ⟨?_, ?_, ?_, ?_⟩
  all_goals
    refine BitVec.eq_of_getLsbD_eq fun i hi => ?_
    simp only [packPixel, BitVec.getLsbD_extractLsb', BitVec.getLsbD_append]
    grind

theorem packPixel_unpackPixel (v : Word) : packPixel (unpackPixel v) = v := by
  refine BitVec.eq_of_getLsbD_eq fun i hi => ?_
  simp only [packPixel, unpackPixel, BitVec.getLsbD_append, BitVec.getLsbD_extractLsb']
  grind

/-- Settles O24: unpacking RESULT gives back the reported pixel, byte by byte. -/
theorem getPixelReportsEntry : Obligations.GetPixelReportsEntry := by
  intro s hc ha
  have hbytes := unpackPixel_packPixel (reported s (pixRead s (opX s).toNat (opY s).toNat))
  exact ⟨_, exec_getPixel_of_noError ((accessError_eq_none_iff s).mpr ⟨hc, ha⟩), congrArg Pixel.r hbytes,
    congrArg Pixel.g hbytes, congrArg Pixel.b hbytes, congrArg Pixel.a hbytes, rfl⟩

/-- A 1 × 1 canvas with alpha whose entry is p, and a GET_PIXEL of it issued. -/
def gettingPixel (p : Pixel) : State :=
  { constructCanvas 1 1 true State.reset with
    pix := pixPut [] 0 p
    phase := .exec
    lc := { Latched.reset with op := 3, word := encode .getPixel } }

theorem gettingPixel_inv (p : Pixel) : (gettingPixel p).Inv := by
  have hlegal : (gettingPixel defaultPixel).params.legal = true := by decide
  have hcanvas : (gettingPixel defaultPixel).CanvasInv := by decide
  have harray : pixCol 0 < Config.resetParams.wMax ∧ pixRow 0 < Config.resetParams.hMax := by decide
  refine ⟨hlegal, hcanvas, ⟨pixPut_wf reset_pix_wf 0 p, fun e he => ?_⟩, nofun, ⟨rfl, fun _ => rfl⟩, nofun, nofun,
    nofun⟩
  rcases mem_pixPut he with rfl | he
  · exact harray
  · cases he

theorem gettingPixel_getsPixel (p : Pixel) : (gettingPixel p).GetsPixel := by
  have haccess : (gettingPixel defaultPixel).AccessOk := by decide
  exact ⟨⟨rfl, rfl, rfl⟩, decode_encode .getPixel, rfl, haccess⟩

theorem gettingPixel_reported (p : Pixel) :
    reported (gettingPixel p) (pixRead (gettingPixel p) (opX (gettingPixel p)).toNat (opY (gettingPixel p)).toNat) =
      p := by
  have hread : pixRead (gettingPixel p) 0 0 = p := pixGet_pixPut_same reset_pix_wf 0 p
  have hx : (opX (gettingPixel p)).toNat = 0 := rfl
  have hy : (opY (gettingPixel p)).toNat = 0 := rfl
  rw [hx, hy, hread]
  rfl

/-- Settles O45; its witness for a value v is the GET_PIXEL of an entry that packs to v. -/
theorem resultIsGetPixelsAlone : Obligations.ResultIsGetPixelsAlone := by
  refine ⟨fun s t h hm hno => ?_, fun s t h hg => ?_, fun s a v => ?_, fun v => ?_, rfl⟩
  · cases step_effect h with
    | pixelGot hg => exact absurd hg hno
    | resetAsserted hrst => exact absurd hrst hm
    | _ => rfl
  · rw [hg.step_eq] at h; cases h; rfl
  · obtain ⟨regs, ovr, lc, err, phase, h⟩ := busWrite_frame s a v
    rw [h]
  · have hg := gettingPixel_getsPixel (unpackPixel v)
    refine ⟨gettingPixel (unpackPixel v), _, gettingPixel_inv _, hg, hg.step_eq, ?_⟩
    rw [complete_result, gettingPixel_reported, packPixel_unpackPixel]

/-! ### The colour count (R160) -/

theorem distinctCount_eq_card (ps : List Pixel) : distinctCount ps = ps.toFinset.card := by
  induction ps with
  | nil => rfl
  | cons p ps ih =>
    rw [distinctCount, List.toFinset_cons]
    split
    · next hp => rw [ih, Finset.insert_eq_of_mem (List.mem_toFinset.mpr hp)]
    · next hp => rw [ih, Finset.card_insert_of_notMem (mt List.mem_toFinset.mp hp)]

theorem mem_canvasPixels {s : State} {p : Pixel} :
    p ∈ canvasPixels s ↔ ∃ x < s.curWidth.toNat, ∃ y < s.curHeight.toNat, pixRead s x y = p := by
  simp only [canvasPixels, List.mem_flatMap, List.mem_map, List.mem_range]
  exact ⟨fun ⟨y, hy, x, hx, h⟩ => ⟨x, hx, y, hy, h⟩, fun ⟨x, hx, y, hy, h⟩ => ⟨y, hy, x, hx, h⟩⟩

/-- A pixel as a 4-tuple (R160). -/
def Pixel.tuple (p : Pixel) : Byte × Byte × Byte × Byte := (p.r, p.g, p.b, p.a)

theorem Pixel.tuple_injective : Function.Injective Pixel.tuple := by
  rintro ⟨r, g, b, a⟩ ⟨r', g', b', a'⟩ h
  cases h
  rfl

/-- The canvas's (x, y) places. -/
def canvasPlaces (s : State) : Finset (Nat × Nat) := Finset.range s.curWidth.toNat ×ˢ Finset.range s.curHeight.toNat

theorem toFinset_canvasPixels (s : State) :
    (canvasPixels s).toFinset = (canvasPlaces s).image fun c => pixRead s c.1 c.2 := by
  ext p
  simp only [List.mem_toFinset, mem_canvasPixels, canvasPlaces, Finset.mem_image, Finset.mem_product, Finset.mem_range,
    Prod.exists, and_assoc, exists_and_left]

theorem canvasColours_eq (s : State) :
    canvasColours s = ((canvasPlaces s).image fun c => pixRead s c.1 c.2).image Pixel.tuple := by
  rw [Finset.image_image]
  rfl

theorem uniqueCount_eq_card (s : State) : uniqueCount s = (canvasColours s).card := by
  rw [uniqueCount, distinctCount_eq_card, toFinset_canvasPixels, canvasColours_eq,
    Finset.card_image_of_injective _ Pixel.tuple_injective]

theorem uniqueCount_pos {s : State} (hw : 1 ≤ s.curWidth.toNat) (hh : 1 ≤ s.curHeight.toNat) : 1 ≤ uniqueCount s := by
  rw [uniqueCount_eq_card]
  exact Finset.card_pos.mpr (.image ⟨(0, 0), by simp only [Finset.mem_product, Finset.mem_range]; omega⟩ _)

theorem uniqueCount_le_area (s : State) : uniqueCount s ≤ s.curWidth.toNat * s.curHeight.toNat := by
  rw [Nat.mul_comm, ← length_canvasPixels]
  exact distinctCount_le_length _

/-- An opaque colour, from its (r, g, b). -/
def opaqueTuple (c : Byte × Byte × Byte) : Byte × Byte × Byte × Byte := (c.1, c.2.1, c.2.2, 255)

theorem opaqueTuple_injective : Function.Injective opaqueTuple := by
  rintro ⟨r, g, b⟩ ⟨r', g', b'⟩ h
  cases h
  rfl

/-- On an opaque canvas a colour is its (r, g, b) with alpha 255. -/
theorem canvasColours_eq_of_opaque {s : State} (hopaque : ∀ y < s.curHeight.toNat, ∀ x < s.curWidth.toNat,
    (pixRead s x y).a = 255) : canvasColours s =
    ((canvasPlaces s).image fun c => ((pixRead s c.1 c.2).r, (pixRead s c.1 c.2).g, (pixRead s c.1 c.2).b)).image
      opaqueTuple := by
  rw [Finset.image_image]
  refine Finset.image_congr fun c hc => ?_
  simp only [Finset.coe_product, Set.mem_prod, Finset.mem_coe, Finset.mem_range] at hc
  obtain ⟨hx, hy⟩ := hc
  simp only [Function.comp_apply, opaqueTuple, hopaque c.2 hy c.1 hx]

/-- Settles O29: the counted list and the set have the same members, and a pixel is its tuple. -/
theorem uniqueCountIsCardinality : Obligations.UniqueCountIsCardinality := by
  refine ⟨uniqueCount_eq_card, fun s hp hc hi => ?_, fun s hc hal hi => ?_⟩
  · have hcl : s.CanvasLegal := hi.1 hc
    have ⟨⟨hw, _⟩, ⟨hh, _⟩, _⟩ := hcl
    exact ⟨uniqueCount_pos hw hh, uniqueCount_le_area s, hcl.uniqueCount_lt hp⟩
  · rw [uniqueCount_eq_card, canvasColours_eq_of_opaque (hi hc hal),
      Finset.card_image_of_injective _ opaqueTuple_injective]
    rfl

end Sys2Proof.Machine

/-! The register map as the host sees it, WAIT, and reset (O4, O5, O9, O10, O11, O12, O15, O51, O52). -/

namespace Sys2Proof.Machine

/-! ### The register map as the host sees it -/

/-- Settles O4: the tables are definitional, and the map has every register at its offset. -/
theorem statementsAreBusTransactions : Obligations.StatementsAreBusTransactions :=
  ⟨fun _ _ => rfl, fun _ => rfl, rfl, rfl, rfl, rfl, rfl, rfl, fun _ _ _ _ _ => rfl, fun _ _ _ => rfl,
    fun _ _ _ _ _ _ => rfl, fun _ _ => rfl, rfl, regAt_offset⟩

/-- A command word fits in the 32 bits it is placed with. -/
theorem withFetchWord_encode (s : State) (i : Instr) :
    s.withFetchWord 32 (encode i).toNat = placeCommand (encode i) s := by
  rw [State.withFetchWord, Nat.mod_eq_of_lt (encode i).isLt, BitVec.ofNat_toNat, BitVec.setWidth_eq]

/-- Settles O5: a placed command word meets the guard of the first clause. -/
theorem stepRunsDecodedCommand : Obligations.StepRunsDecodedCommand := by
  refine ⟨fun s i rc hi => step_of_runsCommand rc hi, fun s i => ?_⟩
  rw [withFetchWord_encode]
  exact step_of_runsCommand (s := placeCommand (encode i) s) ⟨rfl, rfl, rfl⟩ (decode_encode i)

/-- Settles O9: an access depends on its address through the slot's register only. -/
theorem slotAddressing : Obligations.SlotAddressing := by
  refine ⟨fun s a b h => ⟨?_, fun v => ?_⟩, fun s a h => ⟨?_, fun v => ?_⟩, fun s => rfl⟩
  · simp only [busRead, regAt_congr h]
  · simp only [busWrite, regAt_congr h]
  · simp only [busRead, regAt_eq_none h]
  · simp only [busWrite, regAt_eq_none h]

/-- The operand registers (R29, R30). -/
def operandRegs : List Reg := [.widthIn, .heightIn, .xIn, .yIn, .rIn, .gIn, .bIn, .aIn]

section
variable {r : Reg} (hr : r ∈ operandRegs)
include hr

theorem readReg_writeReg_same (s : State) (v : Word) : readReg (writeReg v s r) r = v := by
  fin_cases hr <;> rfl

/-- STATUS shows no operand register, and every other register shows one field of its own. -/
theorem readReg_writeReg_other {q : Reg} (hq : q ≠ r) (s : State) (v : Word) :
    readReg (writeReg v s r) q = readReg s q := by
  fin_cases hr <;> cases q <;> first | rfl | exact absurd rfl hq

theorem writeReg_operand_frame (s : State) (v : Word) :
    writeReg v s r = { s with regs := (writeReg v s r).regs } := by
  fin_cases hr <;> rfl

end

/-- Settles O10, by what a write to an operand register does to each register of the map. -/
theorem operandRegistersReadBack : Obligations.OperandRegistersReadBack := by
  refine ⟨fun s r v hr => ?_, fun s => ⟨rfl, rfl, rfl, rfl, rfl, rfl, rfl, rfl⟩,
    fun s v => ⟨rfl, rfl, rfl, rfl, rfl, rfl, rfl, rfl⟩⟩
  simp only [busWrite_offset, busRead_offset]
  exact ⟨readReg_writeReg_same hr s v, fun q hq => readReg_writeReg_other hr hq s v, writeReg_operand_frame hr s v⟩

/-- Settles O11, register by register. -/
theorem readOnlyRegistersIgnoreWrites : Obligations.ReadOnlyRegistersIgnoreWrites := by
  refine ⟨fun s r v hr => ?_, fun s => ⟨rfl, rfl, rfl, rfl, rfl, rfl, rfl, rfl⟩⟩
  rw [busWrite_offset]
  fin_cases hr <;> rfl

/-! ### STATUS (R24 to R28) -/

theorem busRead_status (s : State) : busRead s 0x04 = s.statusWord := busRead_offset s .status

section
variable (s : State)

theorem statusWord_flags : s.statusWord.getLsbD 0 = s.busy ∧ s.statusWord.getLsbD 1 = s.configured ∧
    s.statusWord.getLsbD 2 = s.alpha ∧ s.statusWord.getLsbD 3 = s.ovr := by
  simp only [State.statusWord, BitVec.getLsbD_append]
  simp

theorem statusWord_busy : s.statusWord.getLsbD 0 = s.busy := (statusWord_flags s).1

theorem statusWord_err : s.statusWord.extractLsb' 4 4 = s.err.code := by
  refine BitVec.eq_of_getLsbD_eq fun i hi => ?_
  simp only [State.statusWord, BitVec.getLsbD_extractLsb', BitVec.getLsbD_append]
  grind

/-- Bits 31:8 read 0. -/
theorem statusWord_lt : s.statusWord.toNat < 2 ^ 8 := by
  refine Nat.lt_pow_two_of_testBit _ fun i hi => ?_
  rw [← BitVec.getLsbD]
  simp only [State.statusWord, BitVec.getLsbD_append]
  grind

end

/-- Settles O12, field by field of the STATUS word. -/
theorem statusBits : Obligations.StatusBits := by
  intro s
  rw [busRead_status, statusWord_err]
  obtain ⟨hbusy, hconfigured, halpha, hovr⟩ := statusWord_flags s
  refine ⟨hbusy, hconfigured, halpha, hovr, ?_, statusWord_lt s⟩
  cases s.err <;> rfl

/-- Settles O15: bit 0 of the value read is BUSY. -/
theorem waitPollsStatus : Obligations.WaitPollsStatus := by
  intro s rest hm hr hp
  have hread : busData (advance s) Reg.status.offset = s.statusWord := by
    rw [busData, advance_rst, hr]
    exact busRead_status (advance s)
  have hp' : (advance s).program = .wait :: rest := hp
  rw [step_eq, hm, applyMove_host]
  simp only [hostMove, hp', performWait, hread, statusWord_busy, busRead_status]
  by_cases hidle : s.phase = .idle
  · have hb : s.busy = false := decide_eq_false (not_not.mpr hidle)
    rw [hb, if_pos hidle]
    rfl
  · have hb : s.busy = true := decide_eq_true hidle
    rw [hb, if_neg hidle]
    rfl

/-! ### Reset (R46, R230) -/

theorem holdReset_atReset (s : State) : (holdReset s).AtReset :=
  ⟨rfl, rfl, rfl, rfl, rfl, rfl, rfl, rfl, rfl, rfl, rfl, rfl⟩

/-- Every register of the map reads 0 but A_IN (R46). -/
theorem readReg_holdReset (s : State) (r : Reg) :
    readReg (holdReset s) r = if r = .aIn then 0x000000FF else 0 := by
  have hstatus : (holdReset s).statusWord = State.reset.statusWord := rfl
  cases r
  case status => rw [readReg, hstatus]; decide
  all_goals rfl

theorem step_of_assert {s : State} (hm : nextMove s = .rst true) : step s = .next (holdReset (advance s)) := by
  rw [step_eq, hm, applyMove_assert]

/-- Settles O51: every step that asserts RST answers the held reset state. -/
theorem resetValues : Obligations.ResetValues := by
  refine ⟨⟨rfl, rfl, rfl, rfl, rfl, rfl, rfl, rfl, rfl, rfl, rfl, rfl⟩, fun s hm => ?_⟩
  refine ⟨_, step_of_assert hm, holdReset_atReset _, rfl, fun r => ?_⟩
  rw [busRead_offset, readReg_holdReset]

/-- While RST is asserted a host's move notes a read or goes on in the program, and no more (R230). -/
theorem hostMove_of_reset {s : State} (hr : s.rst = true) :
    ∃ p l, hostMove s = { s with program := p, busLog := l } := by
  rcases hostMove_cases s with h | ⟨hr', -⟩
  · exact h
  · rw [hr] at hr'; cases hr'

/-- Settles O52, mover by mover: with RST asserted no agent moves a value that R46 gives. -/
theorem resetHolds : Obligations.ResetHolds := by
  refine ⟨fun s hr hat hm => ?_, fun s hm => ⟨_, step_of_assert hm, rfl, rfl⟩, fun s hr hat hm => ?_⟩
  · cases hmove : nextMove s with
    | host =>
      obtain ⟨p, l, h⟩ := hostMove_of_reset (s := advance s) hr
      exact ⟨hostMove (advance s), by rw [step_eq, hmove, applyMove_host], h ▸ hat, h ▸ hr, h ▸ rfl⟩
    | engine => exact ⟨advance s, by rw [step_eq, hmove, applyMove_engine_reset (s := advance s) hr], hat, hr, rfl⟩
    | transfer hold =>
      exact ⟨advance s, by rw [step_eq, hmove, applyMove_transfer_reset (s := advance s) hold hr], hat, hr, rfl⟩
    | sink ready => exact ⟨{ advance s with outReady := ready }, by rw [step_eq, hmove, applyMove_sink], hat, hr, rfl⟩
    | rst asserted =>
      cases asserted with
      | true => exact ⟨_, step_of_assert hmove, holdReset_atReset _, rfl, rfl⟩
      | false => exact absurd hmove hm
  · refine ⟨releaseReset (advance s), by rw [step_eq, hm, applyMove_release], hat, rfl, fun v => ?_⟩
    have ⟨hidle, _⟩ := hat
    have hbusy : (releaseReset (advance s)).busy = false := hidle
    rw [show (0x00 : BusAddr) = Reg.cmd.offset from rfl, busWrite_offset, writeReg, issue, hbusy]
    rfl

end Sys2Proof.Machine

/-! One host access per step, and the byte sequences (O14, O20, O59). -/

namespace Sys2Proof.Machine

/-! ### The host's one access (R60, R68) -/

/-- Settles O59: a step of the host that writes is that write. -/
theorem hostWritePerformsItsAccess : Obligations.HostWritePerformsItsAccess :=
  fun _ _ _ st _ hm hr hp he => step_of_hostWrites ⟨hm, hr, st, hp, he⟩

/-- What the host reads does not depend on its program or on the schedule (R60). -/
theorem busRead_advance (s : State) (rest : List Stmt) (a : BusAddr) :
    busRead { advance s with program := rest } a = busRead s a := rfl

/-- Settles O14: out of reset a read is performed, and only its value is noted. -/
theorem hostReadHasNoSideEffect : Obligations.HostReadHasNoSideEffect := by
  intro s a rest hm hr hp
  have hread : busData { advance s with program := rest } a = busRead s a := by
    rw [busData, if_neg (by simp [hr]), busRead_advance]
  rw [step_eq, hm, applyMove_host, hostMove_access (s := advance s) hp nofun, Stmt.encode, performAccess, hread]
  rfl

/-! ### Byte sequences (R63) -/

/-- A byte of a word, by division and remainder. -/
theorem toNat_byteAt {w : Nat} (v : BitVec w) (i : Nat) : (v.extractLsb' i 8).toNat = v.toNat / 2 ^ i % 2 ^ 8 := by
  rw [BitVec.extractLsb'_toNat, Nat.shiftRight_eq_div_pow]

/-- The highest byte of a word needs no remainder. -/
theorem toNat_topByte {i : Nat} (v : BitVec (i + 8)) : (v.extractLsb' i 8).toNat = v.toNat / 2 ^ i := by
  have hv := v.isLt
  rw [toNat_byteAt, Nat.mod_eq_of_lt (Nat.div_lt_of_lt_mul (by rwa [← Nat.pow_add]))]

/-- Settles O20, byte by byte. -/
theorem byteSequences : Obligations.ByteSequences := by
  refine ⟨fun v => ?_, fun v => ?_, fun v => ?_⟩
  · have htop := toNat_topByte (i := 8) v
    simp only [le16, List.map_cons, List.map_nil, htop, toNat_byteAt, Nat.pow_zero, Nat.div_one]
  all_goals have htop := toNat_topByte (i := 24) v
  · simp only [le32, List.map_cons, List.map_nil, htop, toNat_byteAt, Nat.pow_zero, Nat.div_one]
  · simp only [be32, List.map_cons, List.map_nil, htop, toNat_byteAt, Nat.pow_zero, Nat.div_one]

end Sys2Proof.Machine

/-! The file as one byte sequence (O34). -/

namespace Sys2Proof.Machine

/-! ### Rows of one length -/

section
variable {α : Type} {f : Nat → List α} {m : Nat}

theorem length_flatMap_range {n : Nat} (hf : ∀ y < n, (f y).length = m) :
    ((List.range n).flatMap f).length = n * m := by
  rw [List.length_flatMap, List.map_congr_left (fun y hy => hf y (List.mem_range.mp hy)), List.map_const',
    List.sum_replicate, List.length_range, smul_eq_mul]

/-- Division and remainder find an entry of the concatenation of n rows of length m. -/
theorem getElem?_flatMap_range {n i : Nat} (hf : ∀ y < n, (f y).length = m) (hi : i < n * m) :
    ((List.range n).flatMap f)[i]? = (f (i / m))[i % m]? := by
  induction n with
  | zero => omega
  | succ n ih =>
    have hf' : ∀ y < n, (f y).length = m := fun y hy => hf y (by omega)
    have hlen : ((List.range n).flatMap f).length = n * m := length_flatMap_range hf'
    have hmul : (n + 1) * m = n * m + m := Nat.succ_mul n m
    rw [List.range_succ, List.flatMap_append, List.flatMap_singleton]
    by_cases hin : i < n * m
    · rw [List.getElem?_append_left (hlen ▸ hin), ih hf' hin]
    · obtain ⟨j, rfl⟩ := Nat.exists_eq_add_of_le (Nat.le_of_not_lt hin)
      have hj : j < m := by omega
      rw [List.getElem?_append_right (by omega), hlen, Nat.add_sub_cancel_left, Nat.add_comm,
        Nat.add_mul_div_right _ _ (by omega), Nat.div_eq_of_lt hj, Nat.zero_add, Nat.add_mul_mod_self_right,
        Nat.mod_eq_of_lt hj]

end

/-! ### The pixel data (R65, R159) -/

theorem length_pixelBytes (al : Bool) (p : Pixel) : (pixelBytes al p).length = bpp al := by cases al <;> rfl

theorem getElem?_pixelBytes {al : Bool} {c : Nat} (p : Pixel) (hc : c < bpp al) :
    (pixelBytes al p)[c]? = some (channelByte p c) := by
  cases al with
  | false =>
    have hc : c < 3 := hc
    interval_cases c <;> rfl
  | true =>
    have hc : c < 4 := hc
    interval_cases c <;> rfl

/-- Rounding up a row's byte count does not lower it (R112). -/
theorem width_mul_bpp_le_stride (w : Nat) (al : Bool) : w * bpp al ≤ stride w al := by
  simp only [stride]
  omega

theorem fileList_eq (s : State) : fileList s = headerBytes s ++ pixelData s := rfl

section
variable {s : State} (hc : s.CanvasLegal)
include hc

/-- The pixel bytes of row y, without the padding. -/
theorem State.CanvasLegal.length_rowPixels (y : Nat) :
    ((List.range s.curWidth.toNat).flatMap fun x => pixelBytes s.alpha (pixRead s x y)).length =
      s.curWidth.toNat * s.layout.bytesPP.toNat := by
  rw [hc.bytesPP_toNat]
  exact length_flatMap_range fun _ _ => length_pixelBytes _ _

theorem State.CanvasLegal.rowBytes_fit (hp : s.params.legal = true) :
    s.curWidth.toNat * s.layout.bytesPP.toNat ≤ s.layout.stride.toNat := by
  rw [hc.bytesPP_toNat, hc.stride_toNat hp]
  exact width_mul_bpp_le_stride _ _

theorem State.CanvasLegal.length_rowBytes (hp : s.params.legal = true) (y : Nat) :
    (rowBytes s y).length = s.layout.stride.toNat := by
  rw [rowBytes, List.length_append, hc.length_rowPixels, List.length_replicate,
    Nat.add_sub_cancel' (hc.rowBytes_fit hp)]

theorem State.CanvasLegal.getElem?_rowBytes {o : Nat} (y : Nat) (ho : o < s.layout.stride.toNat) :
    (rowBytes s y)[o]? = some (rowByte s y o) := by
  have hpix := hc.length_rowPixels y
  rw [rowBytes, rowByte]
  split
  case isTrue hlt =>
    rw [List.getElem?_append_left (hpix ▸ hlt)]
    rw [hc.bytesPP_toNat] at hlt ⊢
    have hbpp : 0 < bpp s.alpha := Nat.pos_of_lt_mul_left hlt
    rw [getElem?_flatMap_range (fun _ _ => length_pixelBytes _ _) hlt, getElem?_pixelBytes _ (Nat.mod_lt _ hbpp)]
  case isFalse hge =>
    rw [List.getElem?_append_right (by omega), hpix, List.getElem?_replicate, if_pos (by omega)]

theorem State.CanvasLegal.length_pixelData (hp : s.params.legal = true) :
    (pixelData s).length = s.curHeight.toNat * s.layout.stride.toNat :=
  length_flatMap_range fun y _ => hc.length_rowBytes hp y

theorem State.CanvasLegal.getElem?_pixelData (hp : s.params.legal = true) {j : Nat}
    (hj : j < s.curHeight.toNat * s.layout.stride.toNat) : (pixelData s)[j]? = some (pixelByte s j) := by
  have hstride : 0 < s.layout.stride.toNat := Nat.pos_of_lt_mul_left hj
  rw [pixelData, getElem?_flatMap_range (fun y _ => hc.length_rowBytes hp y) hj,
    hc.getElem?_rowBytes _ (Nat.mod_lt _ hstride), pixelByte]

/-! ### The file (R150) -/

theorem State.CanvasLegal.length_dibHeader : (dibBase s ++ maskBlock s).length = s.layout.hdrSize.toNat := by
  rw [hc.hdrSize_toNat, maskBlock]
  cases s.alpha <;> rfl

theorem State.CanvasLegal.length_headerBytes : (headerBytes s).length = s.layout.pixOffset.toNat := by
  rw [headerBytes, List.append_assoc, List.length_append, hc.length_dibHeader, hc.hdrSize_toNat, hc.pixOffset_toNat]
  rfl

theorem State.CanvasLegal.length_fileList (hp : s.params.legal = true) :
    (fileList s).length = s.layout.fileSize.toNat := by
  rw [fileList_eq, List.length_append, hc.length_headerBytes, hc.length_pixelData hp, hc.fileSize_eq_sum hp]

theorem State.CanvasLegal.fileByte_eq_getElem? (hp : s.params.legal = true) (k : Nat) :
    fileByte s k = (fileList s)[k]? := by
  have hhead := hc.length_headerBytes
  have hsize := hc.fileSize_eq_sum hp
  rw [fileByte]
  split
  case isFalse hk => rw [List.getElem?_eq_none (by rw [hc.length_fileList hp]; omega)]
  case isTrue hk =>
  rw [fileList_eq]
  split
  case isTrue hlt => rw [List.getElem?_append_left (by omega)]
  case isFalse hge => rw [List.getElem?_append_right (by omega), hhead, hc.getElem?_pixelData hp (by omega)]

/-- Every offset inside the file has a byte. -/
theorem State.CanvasLegal.exists_fileByte (hp : s.params.legal = true) {k : Nat} (hk : k < s.layout.fileSize.toNat) :
    ∃ b, fileByte s k = some b :=
  ⟨_, (hc.fileByte_eq_getElem? hp k).trans (List.getElem?_eq_getElem (by rwa [hc.length_fileList hp]))⟩

end

/-- Settles O34: the rows all have STRIDE bytes and the pixels of a row BYTES_PP, so division and remainder find each
byte in its row and pixel. -/
theorem fileByteIndexesTheFile : Obligations.FileByteIndexesTheFile := by
  intro s hp hconf hi
  have hc : s.CanvasLegal := hi.1 hconf
  exact ⟨hc.length_fileList hp, rfl, hc.length_dibHeader, hc.length_headerBytes, hc.fileByte_eq_getElem? hp⟩

end Sys2Proof.Machine

/-! That every step answers (O57), a transfer (O36), and the order of the sink's transfers (O38). -/

namespace Sys2Proof.Machine

/-! ### Every step answers (R206) -/

section
variable {s : State}

theorem driveByte_answers (hp : s.params.legal = true) (hi : s.CanvasInv) (hconf : s.configured = true)
    (hk : s.k.toNat < s.layout.fileSize.toNat) : ∃ t, driveByte s = .next t := by
  obtain ⟨b, hb⟩ := (hi.1 hconf).exists_fileByte hp hk
  exact ⟨_, driveByte_of_fileByte hb⟩

theorem runCommand_answers (s : State) : ∃ t, runCommand s = .next t := by
  rcases runCommand_cases s with ⟨i, -, h⟩ | ⟨e, -, h⟩ <;> rw [h]
  · exact exec_answers i s
  · exact ⟨_, rfl⟩

theorem engineMove_answers (hp : s.params.legal = true) (hi : s.CanvasInv) (hs : s.StreamInv) :
    ∃ t, engineMove s = .next t := by
  rcases engineMove_cases s with ⟨-, h⟩ | ⟨-, h⟩ | ⟨-, -, h⟩ | ⟨hstream, -, h⟩ <;> rw [h]
  · exact ⟨_, rfl⟩
  · exact runCommand_answers s
  · exact ⟨_, rfl⟩
  · obtain ⟨hconf, -, hk, -⟩ := hs hstream
    exact driveByte_answers hp hi hconf hk

theorem transferMove_answers (hp : s.params.legal = true) (hi : s.CanvasInv) (hs : s.StreamInv) (hold : Bool) :
    ∃ t, transferMove hold s = .next t := by
  rcases transferMove_cases hold s with ⟨-, h⟩ | ⟨-, -, h⟩ | ⟨hcan, hne, -, h⟩ | ⟨-, -, -, h⟩ <;> rw [h]
  · exact ⟨_, rfl⟩
  · exact ⟨_, rfl⟩
  · obtain ⟨hstream, -⟩ := (canTransfer_iff s).mp hcan
    obtain ⟨hconf, -, hk, -⟩ := hs hstream
    exact driveByte_answers (s := emitByte s) hp hi hconf (cursor_succ_lt hk hne)
  · exact ⟨_, rfl⟩

end

/-- Settles O57, mover by mover: only phase STREAM can fault, and there the cursor has a byte. -/
theorem stepAlwaysAnswers : Obligations.StepAlwaysAnswers := by
  intro s hi
  obtain ⟨hp, hcanvas, -, -, -, hstream, -⟩ := hi
  rw [step_eq]
  cases nextMove s with
  | host | sink | rst => exact ⟨_, rfl⟩
  | engine =>
    cases hr : (advance s).rst with
    | false => rw [applyMove_engine hr]; exact engineMove_answers hp hcanvas hstream
    | true => exact ⟨_, applyMove_engine_reset hr⟩
  | transfer hold =>
    cases hr : (advance s).rst with
    | false => rw [applyMove_transfer hold hr]; exact transferMove_answers (s := advance s) hp hcanvas hstream hold
    | true => exact ⟨_, applyMove_transfer_reset hold hr⟩

/-! ### A transfer (R170, R171) -/

/-- Everything the step of a transfer can do: complete the stream, or go on with OUT_VALID low or with the next byte. -/
theorem State.Transfers.step_cases {s t : State} (tr : s.Transfers) (h : step s = .next t) :
    (s.k + 1 = s.layout.fileSize ∧ t = complete (emitByte (advance s))) ∨
    (s.k + 1 ≠ s.layout.fileSize ∧ ∃ out, t = { emitByte (advance s) with out := out } ∧
      (out.valid = true → fileByte s (s.k + 1).toNat = some out.data)) := by
  obtain ⟨⟨hold, hm⟩, hr, hstream, hvalid, hready⟩ := tr
  have hcan : canTransfer (advance s) = true := (canTransfer_iff _).mpr ⟨hstream, hvalid, hready⟩
  rw [step_eq, hm, applyMove_transfer (s := advance s) hold hr] at h
  rcases transferMove_cases hold (advance s) with ⟨hnot, -⟩ | ⟨-, hk, h'⟩ | ⟨-, hk, -, h'⟩ | ⟨-, hk, -, h'⟩
  · rw [hcan] at hnot; cases hnot
  · rw [h'] at h; cases h; exact .inl ⟨hk, rfl⟩
  · rcases driveByte_cases (emitByte (advance s)) with ⟨b, hb, hd⟩ | ⟨-, hd⟩ <;> rw [h', hd] at h <;> cases h
    exact .inr ⟨hk, _, rfl, fun _ => hb⟩
  · rw [h'] at h; cases h; exact .inr ⟨hk, _, rfl, nofun⟩

/-- The transfer of byte b at the cursor (R62, R170). -/
def State.transferOf (s : State) (b : Byte) : Transfer :=
  { offset := s.k.toNat, data := b, last := decide (s.k.toNat + 1 = s.layout.fileSize.toNat) }

/-- In phase STREAM the cursor can advance without wrapping (R43). -/
theorem State.StreamInv.toNat_k_succ {s : State} (hi : s.StreamInv) (hstream : s.phase = .stream) :
    (s.k + 1).toNat = s.k.toNat + 1 := by
  obtain ⟨-, -, hk, -⟩ := hi hstream
  bv_omega

/-- The sink takes what the port offers: the byte at the cursor (R170). -/
theorem State.PortInv.sinkLog_emitByte {s : State} (hi : s.PortInv) (hv : s.out.valid = true) :
    ∃ b, fileByte s s.k.toNat = some b ∧ (emitByte s).sinkLog = s.transferOf b :: s.sinkLog := by
  obtain ⟨-, hb, hlast⟩ := hi hv
  exact ⟨s.out.data, hb, by rw [emitByte_sinkLog, hlast, State.transferOf]⟩

/-- Settles O36, by the two ways a transfer can end. -/
theorem transferEmitsByteAtCursor : Obligations.TransferEmitsByteAtCursor := by
  intro s hi tr
  obtain ⟨t, h⟩ := stepAlwaysAnswers s hi
  obtain ⟨-, -, -, -, -, hs, hport, -⟩ := hi
  have ⟨_, _, hstream, hvalid, _⟩ := tr
  obtain ⟨b, hb, hlog⟩ := hport.sinkLog_emitByte hvalid
  have hk := hs.toNat_k_succ hstream
  refine ⟨t, b, h, hb, ?_⟩
  rcases tr.step_cases h with ⟨hend, rfl⟩ | ⟨hend, out, rfl, hout⟩
  · exact ⟨hlog, hk, fun _ => ⟨rfl, rfl, rfl⟩, fun hne => absurd (hk ▸ congrArg BitVec.toNat hend) hne⟩
  · exact ⟨hlog, hk, fun heq => absurd (BitVec.eq_of_toNat_eq (hk.trans heq)) hend, fun _ => ⟨hstream, hk ▸ hout⟩⟩

/-! ### The transfers of a file (R62) -/

section
variable {s : State} (hc : s.CanvasLegal) (hp : s.params.legal = true)
include hc hp

theorem State.CanvasLegal.length_fileTransfers : (fileTransfers s).length = s.layout.fileSize.toNat := by
  rw [fileTransfers, List.length_map, List.length_zipIdx, hc.length_fileList hp]

/-- The file's first K + 1 transfers end with the one at the cursor. -/
theorem State.CanvasLegal.take_fileTransfers_succ {b : Byte} (hb : fileByte s s.k.toNat = some b) :
    (fileTransfers s).take (s.k.toNat + 1) = (fileTransfers s).take s.k.toNat ++ [s.transferOf b] := by
  rw [hc.fileByte_eq_getElem? hp] at hb
  have hget : (fileTransfers s)[s.k.toNat]? = some (s.transferOf b) := by
    simp [fileTransfers, State.transferOf, hb]
  rw [List.take_add_one, hget, Option.toList_some]

end

/-- Phase STREAM has a canvas with registers in range (R171). -/
theorem State.Inv.canvasLegal_of_stream {s : State} (hi : s.Inv) (hstream : s.phase = .stream) :
    s.params.legal = true ∧ s.CanvasLegal := by
  obtain ⟨hp, hcanvas, -, -, -, hs, -⟩ := hi
  obtain ⟨hconf, -⟩ := hs hstream
  exact ⟨hp, hcanvas.1 hconf⟩

/-- A transfer keeps the sink's last K transfers the first K of the file, for the advanced K (R62). -/
theorem State.Transfers.taken {s : State} (tr : s.Transfers) (hi : s.Inv) (ht : s.TakenIsPrefix) :
    ((emitByte s).sinkLog.take (s.k + 1).toNat).reverse = (fileTransfers s).take (s.k + 1).toNat := by
  obtain ⟨-, -, hstream, hvalid, -⟩ := tr
  obtain ⟨hp, hc⟩ := hi.canvasLegal_of_stream hstream
  obtain ⟨-, -, -, -, -, hs, hport, -⟩ := hi
  obtain ⟨b, hb, hlog⟩ := hport.sinkLog_emitByte hvalid
  rw [hs.toNat_k_succ hstream, hlog, List.take_succ_cons, List.reverse_cons, ht hstream,
    hc.take_fileTransfers_succ hp hb]

/-- After the last transfer the first K of the file are all of it (R171). -/
theorem State.Transfers.taken_last {s : State} (tr : s.Transfers) (hi : s.Inv) (ht : s.TakenIsPrefix)
    (hend : s.k + 1 = s.layout.fileSize) :
    ((emitByte s).sinkLog.take s.layout.fileSize.toNat).reverse = fileTransfers s := by
  have ⟨_, _, hstream, _⟩ := tr
  obtain ⟨hp, hc⟩ := hi.canvasLegal_of_stream hstream
  have htaken := tr.taken hi ht
  rwa [hend, List.take_of_length_le (hc.length_fileTransfers hp).le] at htaken

/-- Settles O38, effect by effect: a transfer appends the byte at the cursor, a SERIALIZE starts with K = 0, and the
last case stands for the effects that leave PHASE, K, the file and the sink's log alone. -/
theorem sinkTakesTheFileInOrder : Obligations.SinkTakesTheFileInOrder := by
  intro s t hi ht h
  cases step_effect h with
  | lastTransfer tr hend => exact ⟨nofun, fun _ _ _ => tr.taken_last hi ht hend⟩
  | transferHeld _ tr | transferLowered tr =>
    exact ⟨fun _ => tr.taken hi ht, fun hs hidle => absurd (hs.symm.trans hidle) nofun⟩
  | streamStarted => exact ⟨fun _ => rfl, fun _ => nofun⟩
  | issued => exact ⟨nofun, fun _ => nofun⟩
  | commandError _ rc | pixelSet rc =>
    obtain ⟨-, hexec, -⟩ := rc
    exact ⟨nofun, fun hs => absurd (hs.symm.trans hexec) nofun⟩
  | configured _ hg | pixelGot hg =>
    obtain ⟨⟨-, hexec, -⟩, -⟩ := hg
    exact ⟨nofun, fun hs => absurd (hs.symm.trans hexec) nofun⟩
  | resetAsserted hrst => exact ⟨nofun, fun _ _ hne => absurd hrst hne⟩
  | _ => exact ⟨ht, fun hs hidle => absurd (hs.symm.trans hidle) nofun⟩

end Sys2Proof.Machine

/-! Encoding, issue, and what each command does by its guards (O1, O2, O3, O6, O21, O22, O23, O25, O28, O41). -/

namespace Sys2Proof.Machine

/-! ### Encoding (R90, R96, R98) -/

theorem decode_eq_ok_iff (v : Word) (i : Instr) : decode v = .ok i ↔ v = encode i :=
  ⟨word_of_decode, fun h => h ▸ decode_encode i⟩

/-- Settles O2: an accepted word's fields are its command's, and a command's word decodes to it. -/
theorem decodeIsInverseOfEncode : Obligations.DecodeIsInverseOfEncode := decode_eq_ok_iff

/-- R90's four conditions on the fields of a legal word. -/
theorem exists_decodeFields_eq_ok_iff (f : CmdFields) : (∃ i, decodeFields f = .ok i) ↔
    (f.op = 1 ∨ f.op = 2 ∨ f.op = 3 ∨ f.op = 4) ∧ f.rsv0 = 0 ∧ f.rsv1 = 0 ∧ (f.alpha = 0 ∨ f.op = 1) := by
  constructor
  · rintro ⟨i, h⟩
    rw [fields_of_decodeFields h]
    cases i with
    | configure al => exact ⟨.inl rfl, rfl, rfl, .inr rfl⟩
    | setPixel => exact ⟨.inr (.inl rfl), rfl, rfl, .inl rfl⟩
    | getPixel => exact ⟨.inr (.inr (.inl rfl)), rfl, rfl, .inl rfl⟩
    | serialize => exact ⟨.inr (.inr (.inr rfl)), rfl, rfl, .inl rfl⟩
  · obtain ⟨op, rsv0, alpha, rsv1⟩ := f
    rintro ⟨hop, rfl, rfl, halpha⟩
    rcases hop with rfl | rfl | rfl | rfl
    · exact ⟨.configure (alpha == 1), by simp [decodeFields, CmdFields.opAssigned, CmdFields.alphaAllowed]⟩
    all_goals
      dsimp only at halpha
      obtain rfl : alpha = 0 := halpha.resolve_right (by decide)
    · exact ⟨.setPixel, rfl⟩
    · exact ⟨.getPixel, rfl⟩
    · exact ⟨.serialize, rfl⟩

/-- The words of opcode_table.json. -/
theorem exists_eq_encode_iff (v : Word) : (∃ i, v = encode i) ↔
    v = 0x00000001 ∨ v = 0x00000101 ∨ v = 0x00000002 ∨ v = 0x00000003 ∨ v = 0x00000004 := by
  constructor
  · rintro ⟨i, rfl⟩
    cases i with
    | configure al => cases al; exacts [.inl rfl, .inr (.inl rfl)]
    | setPixel => exact .inr (.inr (.inl rfl))
    | getPixel => exact .inr (.inr (.inr (.inl rfl)))
    | serialize => exact .inr (.inr (.inr (.inr rfl)))
  · rintro (rfl | rfl | rfl | rfl | rfl)
    exacts [⟨.configure false, rfl⟩, ⟨.configure true, rfl⟩, ⟨.setPixel, rfl⟩, ⟨.getPixel, rfl⟩, ⟨.serialize, rfl⟩]

theorem exists_decode_eq_ok_iff (v : Word) : (∃ i, decode v = .ok i) ↔
    v = 0x00000001 ∨ v = 0x00000101 ∨ v = 0x00000002 ∨ v = 0x00000003 ∨ v = 0x00000004 := by
  simp only [decode_eq_ok_iff, exists_eq_encode_iff]

/-- A step in phase EXEC ends the command of an illegal word with IllegalCommand (R97). -/
theorem step_of_illegal {s : State} (rc : s.RunsCommand) (h : ¬ ∃ i, decode s.lc.word = .ok i) :
    step s = .next (raiseError .illegalCommand (advance s)) := by
  obtain ⟨hm, hexec, hr⟩ := rc
  rw [step_eq, hm, applyMove_engine (s := advance s) hr, engineMove_of_exec (s := advance s) hexec]
  cases hd : decode s.lc.word with
  | ok i => exact absurd ⟨i, hd⟩ h
  | error e => exact runCommand_of_error (s := advance s) hd

/-- Settles O1: by the decoder's conditions, by the encoder's words, and by the engine's step on any other word. -/
theorem legalWordsAreTheFiveForms : Obligations.LegalWordsAreTheFiveForms := by
  intro v
  refine ⟨exists_decodeFields_eq_ok_iff (splitWord v), exists_decode_eq_ok_iff v, fun h s rc hv => ?_⟩
  subst hv
  exact step_of_illegal rc h

/-- Settles O3, word by word. -/
theorem tableWordsDecode : Obligations.TableWordsDecode :=
  ⟨⟨rfl, rfl, rfl, rfl, rfl⟩, rfl, rfl, rfl, rfl, rfl, rfl, rfl, rfl⟩

/-! ### Issue (R95) -/

theorem issue_of_busy {s : State} (v : Word) (h : s.busy = true) : issue v s = { s with ovr := true } := if_pos h

theorem issue_of_idle {s : State} (v : Word) (h : s.busy = false) : issue v s = issueAccepted v s := by
  simp only [issue, h, Bool.false_eq_true, if_false]

/-- Settles O6: a WR to CMD is one bus write, whose branch BUSY chooses. -/
theorem cmdWriteIssuesOrOverruns : Obligations.CmdWriteIssuesOrOverruns := by
  intro s v rest hm hr hp
  have hw : s.HostWrites Reg.cmd.offset (u32 v) rest := ⟨hm, hr, _, hp, rfl⟩
  rw [step_of_hostWrites hw, busWrite_offset, writeReg]
  exact ⟨fun hb => congrArg _ (issue_of_busy _ hb), fun hb => congrArg _ (issue_of_idle _ hb)⟩

/-! ### CONFIGURE (R110, R116) -/

/-- An operand that is not negative spells the same number signed and unsigned (R92). -/
theorem toNat_toInt_of_nonneg {w : Word} (h : 0 ≤ w.toInt) : w.toInt.toNat = w.toNat := by
  rw [BitVec.toInt_eq_toNat_of_lt (BitVec.toInt_pos_iff.mp h), Int.toNat_natCast]

/-- A word with bit 31 set is negative (R93). -/
theorem toInt_neg_of_le_toNat {w : Word} (h : 2 ^ 31 ≤ w.toNat) : w.toInt < 0 :=
  BitVec.toInt_neg_iff.mpr (by omega)

/-- Dimensions in range are the latched words read as unsigned numbers. -/
theorem State.DimsOk.dims_eq {s : State} (h : s.DimsOk) :
    (opWidth s).toNat = s.lc.ops.w.toNat ∧ (opHeight s).toNat = s.lc.ops.h.toNat := by
  obtain ⟨⟨hw, -⟩, hh, -⟩ := h
  exact ⟨toNat_toInt_of_nonneg (by omega), toNat_toInt_of_nonneg (by omega)⟩

theorem pixelOffset_eq (al : Bool) : pixelOffset al = if al then 70 else 54 := by cases al <;> rfl

/-- An entry number off the w × h canvas. -/
theorem onCanvas_eq_false {w h a : Nat} (ha : ¬ (pixCol a < w ∧ pixRow a < h)) : onCanvas w h a = false := by
  rwa [← Bool.not_eq_true, onCanvas, Bool.and_eq_true, decide_eq_true_eq, decide_eq_true_eq]

/-- Settles O21: the new canvas is legal, so its layout registers are the functions of its dimensions. -/
theorem configureConstructsCanvas : Obligations.ConfigureConstructsCanvas := by
  intro s al hp hd
  have hc := constructCanvas_legal hd al
  have hexec := exec_configure_of_dimsOk al hd
  obtain ⟨hw, hh⟩ := hd.dims_eq
  rw [hw, hh] at hc hexec
  have hcw : (constructCanvas s.lc.ops.w.toNat s.lc.ops.h.toNat al s).curWidth = s.lc.ops.w :=
    (BitVec.ofNat_toNat 32 _).trans (BitVec.setWidth_eq _)
  have hch : (constructCanvas s.lc.ops.w.toNat s.lc.ops.h.toNat al s).curHeight = s.lc.ops.h :=
    (BitVec.ofNat_toNat 32 _).trans (BitVec.setWidth_eq _)
  have hstride := hc.stride_toNat hp
  have hsize := hc.fileSize_toNat hp
  rw [hcw] at hstride hsize
  rw [hch, fileSize, constructCanvas_alpha, pixelOffset_eq] at hsize
  refine ⟨_, hexec, ⟨hcw, hch, rfl, rfl⟩,
    ⟨hc.bytesPP_toNat, hstride, hc.hdrSize_toNat, hc.pixOffset_toNat.trans (pixelOffset_eq al), hsize⟩,
    fun x y hx hy => ?_, fun a ha => ?_, rfl⟩
  · exact pixGet_pixClear_pixAddr s.pix hx (hx.trans (BitVec.isLt _)) hy
  · exact pixGet_pixClear_off s.pix (onCanvas_eq_false ha)

/-- Settles O22: a bad dimension fails the guard, and a word with bit 31 set is a negative one. -/
theorem configureRejectsBadDimensions : Obligations.ConfigureRejectsBadDimensions := by
  refine ⟨fun s al h => ?_, fun s al h => ?_⟩ <;> refine exec_configure_of_not_dimsOk al fun hd => ?_
  all_goals obtain ⟨⟨hw, hwm⟩, hh, hhm⟩ := hd
  · omega
  · rcases h with h | h <;> have := toInt_neg_of_le_toNat h <;> omega

/-! ### SET_PIXEL and GET_PIXEL (R130, R133 to R135, R140) -/

theorem toNat_clamp8 (v : Int) : ((clamp8 v).toNat : Int) = max 0 (min 255 v) := by
  unfold clamp8
  split
  · next hneg =>
    rw [min_eq_right (by omega), max_eq_left (by omega)]
    rfl
  · split
    · next hbig => rw [min_eq_left (by omega)]; rfl
    · rw [BitVec.toNat_ofInt]
      omega

/-- Settles O23: the written entry reads as the operand pixel, and every other entry as before. -/
theorem setPixelStoresClampedPixel : Obligations.SetPixelStoresClampedPixel := by
  intro s hwf hc ha
  have hread : pixRead (complete (pixWrite (opX s).toNat (opY s).toNat (opPixel s) s)) (opX s).toNat (opY s).toNat =
      opPixel s := pixGet_pixPut_same hwf _ _
  refine ⟨_, exec_setPixel_of_noError ((accessError_eq_none_iff s).mpr ⟨hc, ha⟩), ?_,
    fun a hne => pixGet_pixPut_other s.pix _ hne, rfl⟩
  rw [hread]
  refine ⟨toNat_clamp8 _, toNat_clamp8 _, toNat_clamp8 _, ?_⟩
  cases hal : s.alpha with
  | false => rw [opPixel_alpha hal]; rfl
  | true => rw [opPixel, hal]; exact toNat_clamp8 _

theorem accessError_of_not_accessOk {s : State} (hc : s.configured = true) (ha : ¬ s.AccessOk) :
    accessError s = some .outOfBounds := by
  rcases accessError_cases s with ⟨hc', -⟩ | ⟨-, -, h⟩ | ⟨-, ha', -⟩
  · exact absurd (hc.symm.trans hc') nofun
  · exact h
  · exact absurd ha' ha

theorem exec_access_of_not_accessOk {s : State} (hc : s.configured = true) (ha : ¬ s.AccessOk) :
    exec .setPixel s = .next (raiseError .outOfBounds s) ∧ exec .getPixel s = .next (raiseError .outOfBounds s) :=
  have he := accessError_of_not_accessOk hc ha
  ⟨exec_setPixel_of_error he, exec_getPixel_of_error he⟩

/-- Settles O25: a coordinate out of range fails the bounds, and a word with bit 31 set is a negative one. -/
theorem pixelAccessOutOfBounds : Obligations.PixelAccessOutOfBounds := by
  refine ⟨fun s hc h => ?_, fun s hc h => ?_⟩ <;> refine exec_access_of_not_accessOk hc fun ha => ?_
  all_goals obtain ⟨⟨hx, hxw⟩, hy, hyh⟩ := ha
  · omega
  · rcases h with h | h <;> have := toInt_neg_of_le_toNat h <;> omega

/-! ### SERIALIZE (R171, R172) -/

/-- Settles O28: the count that SERIALIZE latches is the cardinality of the set of colours. -/
theorem serializeStartsStream : Obligations.SerializeStartsStream := by
  intro s hc
  rw [exec_serialize_of_configured hc, startStream, uniqueCount_eq_card]

/-! ### The outcome of each command (R203, R204) -/

section
variable (s : State)

theorem exec_configure_err (al : Bool) : ∃ t, exec (.configure al) s = .next t ∧
    t.err = if s.DimsOk then .ok else .invalidDimension := by
  rcases execConfigure_cases al s with ⟨hd, h⟩ | ⟨hd, h⟩ <;> refine ⟨_, h, ?_⟩
  · rw [if_pos hd]; rfl
  · rw [if_neg hd]; rfl

theorem exec_access_err {i : Instr} (hi : i = .setPixel ∨ i = .getPixel) : ∃ t, exec i s = .next t ∧
    t.err = (accessError s).getD .ok := by
  cases he : accessError s with
  | some c =>
    rcases hi with rfl | rfl
    exacts [⟨_, exec_setPixel_of_error he, rfl⟩, ⟨_, exec_getPixel_of_error he, rfl⟩]
  | none =>
    rcases hi with rfl | rfl
    exacts [⟨_, exec_setPixel_of_noError he, rfl⟩, ⟨_, exec_getPixel_of_noError he, rfl⟩]

/-- The checks of an access in the order of R204. -/
theorem accessError_getD : (accessError s).getD .ok =
    if s.configured = false then .noCanvas else if s.AccessOk then .ok else .outOfBounds := by
  rcases accessError_cases s with ⟨hc, h⟩ | ⟨hc, ha, h⟩ | ⟨hc, ha, h⟩ <;> rw [h]
  · rw [if_pos hc]; rfl
  · rw [if_neg (by simp [hc]), if_neg ha]; rfl
  · rw [if_neg (by simp [hc]), if_pos ha]; rfl

/-- SERIALIZE keeps the 0 that its issue put in ERR (R95, R171). -/
theorem exec_serialize_err (herr : s.err = .ok) : ∃ t, exec .serialize s = .next t ∧
    t.err = if s.configured = false then .noCanvas else .ok := by
  rcases execSerialize_cases s with ⟨hc, h⟩ | ⟨hc, h⟩ <;> refine ⟨_, h, ?_⟩
  · rw [if_pos hc]; rfl
  · rw [if_neg (by simp [hc])]; exact herr

end

/-- Settles O41: an illegal word is none of the five, and of a legal one each command's own outcome decides. -/
theorem errorPriority : Obligations.ErrorPriority := by
  intro s rc herr
  by_cases hlegal : ∃ i, decode s.lc.word = .ok i
  · obtain ⟨i, hi⟩ := hlegal
    rw [step_of_runsCommand rc hi, word_of_decode hi]
    cases i with
    | configure al =>
      rw [if_pos (by cases al <;> decide)]
      exact exec_configure_err (advance s) al
    | setPixel | getPixel =>
      rw [if_neg (by decide), if_pos (by decide), ← accessError_getD]
      exact exec_access_err (advance s) (by decide)
    | serialize =>
      rw [if_neg (by decide), if_neg (by decide), if_pos (by decide)]
      exact exec_serialize_err (advance s) herr
  · refine ⟨_, step_of_illegal rc hlegal, ?_⟩
    simp only [exists_decode_eq_ok_iff, not_or] at hlegal
    obtain ⟨hconf, hconfA, hset, hget, hser⟩ := hlegal
    rw [if_neg (not_or.mpr ⟨hconf, hconfA⟩), if_neg (not_or.mpr ⟨hset, hget⟩), if_neg hser]
    rfl

end Sys2Proof.Machine

/-! The header generator's statements: the stride (O16) and the DIB header (O31). -/

namespace Sys2Proof.Machine

/-! ### The stride (R112, R118) -/

theorem stride_mod_four (w : Nat) (al : Bool) : stride w al % 4 = 0 := Nat.mul_mod_left _ 4

/-- A row of 4-byte pixels needs no rounding. -/
theorem stride_alpha (w : Nat) : stride w true = 4 * w := by
  simp only [stride, bpp, if_true]
  omega

theorem stride_sub_row (w : Nat) (al : Bool) : stride w al - w * bpp al = if al then 0 else w % 4 := by
  cases al with
  | true => rw [stride_alpha, bpp, if_pos rfl, Nat.mul_comm, Nat.sub_self, if_pos rfl]
  | false =>
    simp only [stride, bpp, Bool.false_eq_true, if_false]
    omega

/-- Settles O16: a row is padded by nothing with alpha, and without it by `w mod 4` bytes, since `3w + w = 4w`. -/
theorem strideLaws : Obligations.StrideLaws := by
  intro w _ al
  have hpad := stride_sub_row w al
  refine ⟨stride_mod_four w al, width_mul_bpp_le_stride w al, ?_, ?_, ?_⟩
  · rw [hpad]
    split <;> omega
  · rintro rfl
    exact ⟨hpad, stride_alpha w⟩
  · rintro rfl
    exact hpad

/-! ### Little-endian fields of the file (R63, R64) -/

/-- A half-word is its two bytes, the lowest first. -/
theorem toNat_eq_sum_bytes16 (v : BitVec 16) :
    (v.extractLsb' 0 8).toNat + 2 ^ 8 * (v.extractLsb' 8 8).toNat = v.toNat := by
  simp only [toNat_byteAt]
  omega

/-- A word is its four bytes, the lowest first. -/
theorem toNat_eq_sum_bytes32 (v : Word) :
    (v.extractLsb' 0 8).toNat + 2 ^ 8 * (v.extractLsb' 8 8).toNat + 2 ^ 16 * (v.extractLsb' 16 8).toNat +
      2 ^ 24 * (v.extractLsb' 24 8).toNat = v.toNat := by
  simp only [toNat_byteAt]
  omega

section
variable {s : State} (hc : s.CanvasLegal) (hp : s.params.legal = true)
include hc hp

theorem State.CanvasLegal.fileByte_of_drop {k : Nat} {l : List Byte} (hl : (fileList s).drop k = l) (i : Nat) :
    fileByte s (k + i) = l[i]? := by
  rw [hc.fileByte_eq_getElem? hp, ← hl, List.getElem?_drop]

/-- A half-word at offset k is read there, and what follows it stands at offset k + 2. -/
theorem State.CanvasLegal.read_le16 {k : Nat} {v : BitVec 16} {l : List Byte}
    (hv : (fileList s).drop k = le16 v ++ l) : fileLE16 s k = some v.toNat ∧ (fileList s).drop (k + 2) = l := by
  have hbyte := hc.fileByte_of_drop hp hv
  have h0 : fileByte s k = some (v.extractLsb' 0 8) := hbyte 0
  have h1 : fileByte s (k + 1) = some (v.extractLsb' 8 8) := hbyte 1
  constructor
  · rw [fileLE16, h0, h1]
    exact congrArg some (toNat_eq_sum_bytes16 v)
  · rw [← List.drop_drop, hv]
    rfl

/-- A word at offset k is read there, and what follows it stands at offset k + 4. -/
theorem State.CanvasLegal.read_le32 {k : Nat} {v : Word} {l : List Byte}
    (hv : (fileList s).drop k = le32 v ++ l) : fileLE32 s k = some v.toNat ∧ (fileList s).drop (k + 4) = l := by
  have hbyte := hc.fileByte_of_drop hp hv
  have h0 : fileByte s k = some (v.extractLsb' 0 8) := hbyte 0
  have h1 : fileByte s (k + 1) = some (v.extractLsb' 8 8) := hbyte 1
  have h2 : fileByte s (k + 2) = some (v.extractLsb' 16 8) := hbyte 2
  have h3 : fileByte s (k + 3) = some (v.extractLsb' 24 8) := hbyte 3
  constructor
  · rw [fileLE32, h0, h1, h2, h3]
    exact congrArg some (toNat_eq_sum_bytes32 v)
  · rw [← List.drop_drop, hv]
    rfl

end

/-! ### The values of the DIB header's fields (R120, R155) -/

theorem toNat_ofNat_bitsPP (al : Bool) : (BitVec.ofNat 16 (bitsPP al)).toNat = if al then 32 else 24 := by
  cases al <;> rfl

/-- The two's complement of a height of at least 1 (R12, R155). -/
theorem toNat_heightField {s : State} (hh : 1 ≤ s.curHeight.toNat) :
    (heightField s).toNat = 2 ^ 32 - s.curHeight.toNat := by
  have hlt := s.curHeight.isLt
  rw [heightField, u32, BitVec.toNat_ofInt]
  omega

/-- The DIB header, field after field, stands behind the 14 bytes of the file header (R150). -/
theorem drop_fileHeader (s : State) : (fileList s).drop 14 =
    le32 s.layout.hdrSize ++ (le32 s.curWidth ++ (le32 (heightField s) ++ (le16 1 ++
      (le16 (BitVec.ofNat 16 (bitsPP s.alpha)) ++ (le32 0 ++ (le32 0 ++ (le32 2835 ++ (le32 2835 ++
        (le32 s.n ++ (le32 0 ++ (maskBlock s ++ pixelData s))))))))))) := by
  have hlen : (fileHeader s).length = 14 := rfl
  rw [fileList, List.append_assoc, List.append_assoc, List.drop_left' hlen]
  simp only [dibBase, List.append_assoc]

/-- Settles O31: the fields are read one after the other, each at the offset where the one before it ends. -/
theorem dibHeaderFields : Obligations.DibHeaderFields := by
  intro s hp hconf hi
  have hc : s.CanvasLegal := hi.1 hconf
  have ⟨_, ⟨hh, _⟩, _⟩ := hc
  obtain ⟨hsize, h18⟩ := hc.read_le32 hp (drop_fileHeader s)
  obtain ⟨hwidth, h22⟩ := hc.read_le32 hp h18
  obtain ⟨hheight, h26⟩ := hc.read_le32 hp h22
  obtain ⟨hplanes, h28⟩ := hc.read_le16 hp h26
  obtain ⟨hbits, h30⟩ := hc.read_le16 hp h28
  obtain ⟨hcompr, h34⟩ := hc.read_le32 hp h30
  obtain ⟨himage, h38⟩ := hc.read_le32 hp h34
  obtain ⟨hxres, h42⟩ := hc.read_le32 hp h38
  obtain ⟨hyres, h46⟩ := hc.read_le32 hp h42
  obtain ⟨hcolours, h50⟩ := hc.read_le32 hp h46
  obtain ⟨himportant, -⟩ := hc.read_le32 hp h50
  rw [hc.hdrSize_toNat] at hsize
  rw [toNat_heightField hh] at hheight
  rw [toNat_ofNat_bitsPP] at hbits
  exact ⟨hsize, hwidth, hheight, hplanes, hbits, hcompr, himage, hxres, hyres, hcolours, himportant⟩

end Sys2Proof.Machine

/-! The pixel accessors' statements: the round trip of a stored pixel (O27), the host's conversion of a channel (O19)
and the laws of the clamp (O18). -/

namespace Sys2Proof.Machine

/-! ### A stored pixel stays stored (R141) -/

/-- What holds of a run's first state, and is kept by its steps from states where Q holds, holds of its last state. -/
theorem run_induction {P Q : State → Prop} (hkeep : ∀ s t, Q s → step s = .next t → P s → P t) {n : Nat} {s t : State}
    (hQ : ∀ m < n, ∀ v, core.run m s = .next v → Q v) (h : core.run n s = .next t) (hs : P s) : P t := by
  induction n generalizing s with
  | zero => cases h; exact hs
  | succ n ih =>
    have hfirst : Q s := hQ 0 n.succ_pos s rfl
    cases hstep : step s with
    | next s' =>
      have hrun (m : Nat) : core.run (m + 1) s = core.run m s' := by
        simp only [Host.Core.run, core, hstep]
      refine ih (fun m hm v hv => ?_) ((hrun n).symm.trans h) (hkeep s s' hfirst hstep hs)
      exact hQ (m + 1) (Nat.succ_lt_succ hm) v ((hrun m).trans hv)
    | fault r => simp only [Host.Core.run, core, hstep, reduceCtorEq] at h
    | refused r => simp only [Host.Core.run, core, hstep, reduceCtorEq] at h

/-- What a GET_PIXEL at (x, y) looks at is in t as it was in s: the canvas and its entry (x, y). -/
structure SamePlace (x y : Nat) (s t : State) : Prop where
  configured : t.configured = s.configured
  alpha : t.alpha = s.alpha
  curWidth : t.curWidth = s.curWidth
  curHeight : t.curHeight = s.curHeight
  entry : pixRead t x y = pixRead s x y

section
variable {x y : Nat} {s t u : State}

theorem SamePlace.refl (x y : Nat) (s : State) : SamePlace x y s s := ⟨rfl, rfl, rfl, rfl, rfl⟩

theorem SamePlace.trans (h : SamePlace x y s t) (h' : SamePlace x y t u) : SamePlace x y s u :=
  ⟨h'.configured.trans h.configured, h'.alpha.trans h.alpha, h'.curWidth.trans h.curWidth,
    h'.curHeight.trans h.curHeight, h'.entry.trans h.entry⟩

/-- A SET_PIXEL whose operands give the number of entry (x, y) is one at (x, y): no two places share a number. -/
theorem State.AccessOk.coords_eq (ha : s.AccessOk) (hx : x < 2 ^ 32)
    (h : pixAddr x y = pixAddr (opX s).toNat (opY s).toNat) : s.lc.ops.x.toInt = x ∧ s.lc.ops.y.toInt = y := by
  obtain ⟨⟨hx0, -⟩, hy0, -⟩ := ha
  obtain ⟨rfl, rfl⟩ := (pixAddr_eq_iff hx (toNat_toInt_lt _)).mp h
  exact ⟨(Int.toNat_of_nonneg hx0).symm, (Int.toNat_of_nonneg hy0).symm⟩

/-- The effects that touch the canvas or entry (x, y) are the three that R141 excludes. -/
theorem StepEffect.samePlace (e : StepEffect s t) (hx : x < 2 ^ 32) (hd : ¬ s.Disturbs x y) : SamePlace x y s t := by
  cases e with
  | configured al hg =>
    obtain ⟨rc, hdec, -⟩ := hg
    exact absurd (.inr ⟨rc, .inl ⟨al, hdec⟩⟩) hd
  | pixelSet rc hdec _ ha =>
    refine ⟨rfl, rfl, rfl, rfl, pixGet_pixPut_other s.pix _ fun hsame => hd ?_⟩
    exact .inr ⟨rc, .inr ⟨hdec, ha.coords_eq hx hsame⟩⟩
  | resetAsserted hm => exact absurd (.inl hm) hd
  | _ => exact ⟨rfl, rfl, rfl, rfl, rfl⟩

/-- R141: an undisturbed run leaves the canvas and entry (x, y) alone. -/
theorem run_samePlace {n : Nat} (hx : x < 2 ^ 32) (hd : ∀ m < n, ∀ v, core.run m t = .next v → ¬ v.Disturbs x y)
    (h : core.run n t = .next u) : SamePlace x y t u :=
  run_induction (P := SamePlace x y t)
    (fun _ _ hquiet hstep hs => hs.trans ((step_effect hstep).samePlace hx hquiet)) hd h (.refl x y t)

theorem SamePlace.withLatched (h : SamePlace x y s t) (lc : Latched) : SamePlace x y s { t with lc := lc } :=
  ⟨h.configured, h.alpha, h.curWidth, h.curHeight, h.entry⟩

/-- A GET_PIXEL's bounds check depends on its operands and on the canvas alone (R133). -/
theorem SamePlace.accessOk (h : SamePlace x y s t) (ha : s.AccessOk) (hx : t.lc.ops.x = s.lc.ops.x)
    (hy : t.lc.ops.y = s.lc.ops.y) : t.AccessOk := by
  rwa [State.AccessOk, hx, hy, h.curWidth, h.curHeight]

end

/-- Settles O27: SET_PIXEL stores the clamped pixel (O23), the run keeps it, GET_PIXEL reports it (O24). -/
theorem setThenGetRoundTrip : Obligations.SetThenGetRoundTrip := by
  intro s t u n hwf hc ha hset hd hrun v hv hvx hvy
  obtain ⟨t', ht', ⟨hr, hg, hb, hal⟩, -, hframe⟩ := setPixelStoresClampedPixel s hwf hc ha
  obtain rfl : t = t' := by cases hset.symm.trans ht'; rfl
  obtain ⟨htc, hta, htal, htx, hty⟩ : t.configured = true ∧ t.AccessOk ∧ t.alpha = s.alpha ∧
      t.lc.ops.x = s.lc.ops.x ∧ t.lc.ops.y = s.lc.ops.y := by rw [hframe]; exact ⟨hc, ha, rfl, rfl, rfl⟩
  have hsame : SamePlace (opX s).toNat (opY s).toNat t v := by
    rw [hv]; exact (run_samePlace (toNat_toInt_lt _) hd hrun).withLatched v.lc
  have hva : v.AccessOk := hsame.accessOk hta (hvx.trans htx.symm) (hvy.trans hty.symm)
  have hread : pixRead v (opX v).toNat (opY v).toNat = pixRead t (opX s).toNat (opY s).toNat := by
    rw [opX, opY, hvx, hvy]; exact hsame.entry
  obtain ⟨g, hget, gr, gg, gb, gal, -⟩ := getPixelReportsEntry v (hsame.configured.trans htc) hva
  rw [hread] at gr gg gb gal
  refine ⟨g, hget, gr ▸ hr, gg ▸ hg, gb ▸ hb, ?_⟩
  rw [gal, hsame.alpha, htal]
  cases hsal : s.alpha with
  | false => rfl
  | true => rw [hsal] at hal; exact hal

/-! ### The host's conversion of a channel (R130, R131) -/

/-- Truncation toward zero (R131). -/
def truncate (q : Rat) : Int := Int.tdiv q.num q.den

theorem truncate_neg (q : Rat) : truncate (-q) = -truncate q := by
  rw [truncate, Rat.num_neg_eq_neg_num, Rat.den_neg_eq_den, Int.neg_tdiv, truncate]

theorem truncate_of_nonneg {q : Rat} (h : 0 ≤ q) : truncate q = ⌊q⌋ := by
  rw [truncate, Int.tdiv_eq_ediv_of_nonneg (Rat.num_nonneg.mpr h), Rat.floor_def']

/-- Truncation is odd, and the floor where nothing is negative. -/
theorem truncate_monotone : Monotone truncate := by
  refine monotone_of_odd_of_monotoneOn_nonneg truncate_neg fun p hp q hq hpq => ?_
  rw [truncate_of_nonneg hp, truncate_of_nonneg hq]
  exact Int.floor_mono hpq

theorem truncate_clamp (q : Rat) : truncate (max 0 (min 255 q)) = max 0 (min 255 (truncate q)) := by
  rw [truncate_monotone.map_max, truncate_monotone.map_min]
  rfl

/-- The word the host writes reads back, as a signed number, as the truncated and saturated value. -/
theorem toInt_hostConvert (q : Rat) : (hostConvert q).toInt = saturate32 (truncate q) := by
  rw [hostConvert, u32, ← truncate, saturate32, BitVec.toInt_ofInt]
  exact Int.bmod_eq_of_le (by omega) (by omega)

theorem clamp_saturate32 (v : Int) : max 0 (min 255 (saturate32 v)) = max 0 (min 255 v) := by
  rw [saturate32]; omega

/-- Settles O19: saturation is absorbed by the clamp, and truncation commutes with it, being monotone. -/
theorem hostConversionCommutesWithClamp : Obligations.HostConversionCommutesWithClamp := by
  intro q
  have hclamp : ((clamp8 (hostConvert q).toInt).toNat : Int) = max 0 (min 255 (truncate q)) := by
    rw [toNat_clamp8, toInt_hostConvert, clamp_saturate32]
  exact ⟨hclamp, hclamp.trans (truncate_clamp q).symm⟩

/-! ### The laws of the clamp (R132) -/

theorem toNat_clamp8_of_channel {v : Int} (h0 : 0 ≤ v) (h255 : v ≤ 255) : ((clamp8 v).toNat : Int) = v := by
  rw [toNat_clamp8, min_eq_right h255, max_eq_right h0]

theorem clamp8_monotone {v w : Int} (h : v ≤ w) : (clamp8 v).toNat ≤ (clamp8 w).toNat := by
  have hle : max 0 (min 255 v) ≤ max 0 (min 255 w) := max_le_max_left 0 (min_le_min_left 255 h)
  rwa [← toNat_clamp8, ← toNat_clamp8, Int.ofNat_le] at hle

/-- A channel is its own clamp. -/
theorem clamp8_toNat (b : Byte) : clamp8 (b.toNat : Int) = b := by
  refine BitVec.eq_of_toNat_eq (Int.ofNat_inj.mp ?_)
  exact toNat_clamp8_of_channel (Int.natCast_nonneg _) (by have := b.isLt; omega)

/-- Settles O18: a clamped value is a channel, and a channel is its own clamp. -/
theorem clampLaws : Obligations.ClampLaws :=
  ⟨fun _ => toNat_clamp8_of_channel, fun _ _ => clamp8_monotone, fun v => clamp8_toNat (clamp8 v), by decide⟩

end Sys2Proof.Machine

/-! The file's headers (O30, O32, O33) and a stream whose sink does not take (O35, O40). -/

namespace Sys2Proof.Machine

/-! ### The file header (R151 to R154) -/

/-- The file header's fields, one after the other, and the rest of the file (R150). -/
theorem fileList_eq_fields (s : State) : fileList s =
    0x42 :: 0x4D :: (le32 s.layout.fileSize ++ (0 :: 0 :: 0 :: 0 ::
      (le32 s.layout.pixOffset ++ (dibBase s ++ (maskBlock s ++ pixelData s))))) := by
  simp only [fileList, fileHeader, List.append_assoc, List.cons_append, List.nil_append]

/-- R154: only the lowest byte of the pixel-data offset is not 0. -/
theorem State.CanvasLegal.le32_pixOffset {s : State} (hc : s.CanvasLegal) :
    le32 s.layout.pixOffset = [if s.alpha then 70 else 54, 0, 0, 0] := by
  obtain ⟨-, -, hl⟩ := hc
  rw [hl]
  cases s.alpha with
  | false => exact (by decide : le32 54 = [54, 0, 0, 0])
  | true => exact (by decide : le32 70 = [70, 0, 0, 0])

/-- Settles O30: the fields are read off the front of the file. -/
theorem fileHeaderBytes : Obligations.FileHeaderBytes := by
  intro s hp hconf hi
  have hc : s.CanvasLegal := hi.1 hconf
  have hfields := fileList_eq_fields s
  obtain ⟨hsize, -⟩ := hc.read_le32 hp (congrArg (List.drop 2) hfields)
  obtain ⟨hoffset, -⟩ := hc.read_le32 hp (congrArg (List.drop 10) hfields)
  rw [hc.le32_pixOffset] at hfields
  have hbyte := hc.fileByte_of_drop hp (k := 0) hfields
  exact ⟨hbyte 0, hbyte 1, hsize, hbyte 6, hbyte 7, hbyte 8, hbyte 9, hbyte 10, hbyte 11, hbyte 12, hbyte 13, hoffset⟩

/-! ### What stands at offset 54 (R158, R159) -/

/-- The mask block, if there is one, and the pixels stand behind the two headers (R150). -/
theorem drop_dibBase (s : State) : (fileList s).drop 54 = maskBlock s ++ pixelData s := by
  have hlen : (fileHeader s ++ dibBase s).length = 54 := rfl
  rw [fileList, List.append_assoc, List.drop_left' hlen]

/-- The four masks of a 32-bit canvas, one after the other. -/
theorem drop_dibBase_of_alpha {s : State} (hal : s.alpha = true) : (fileList s).drop 54 =
    be32 0x0000FF00 ++ (be32 0x00FF0000 ++ (be32 0xFF000000 ++ (be32 0x000000FF ++ pixelData s))) := by
  rw [drop_dibBase, maskBlock, if_pos hal]
  simp only [List.append_assoc]

/-- The first row of a concatenation of rows stands at its front. -/
theorem isPrefix_flatMap_range {α : Type} (f : Nat → List α) {n : Nat} (hn : 1 ≤ n) :
    f 0 <+: (List.range n).flatMap f := by
  obtain ⟨m, rfl⟩ := Nat.exists_eq_add_of_le' hn
  rw [List.range_succ_eq_map, List.flatMap_cons]
  exact ⟨_, rfl⟩

section
variable {s : State} (hc : s.CanvasLegal)
include hc

/-- The pixel data begins with the pixel (0, 0) (R159). -/
theorem State.CanvasLegal.firstPixel_isPrefix : pixelBytes s.alpha (pixRead s 0 0) <+: pixelData s := by
  obtain ⟨⟨hw, -⟩, ⟨hh, -⟩, -⟩ := hc
  have hrow : pixelBytes s.alpha (pixRead s 0 0) <+: rowBytes s 0 :=
    (isPrefix_flatMap_range (fun x => pixelBytes s.alpha (pixRead s x 0)) hw).trans ⟨_, rfl⟩
  exact hrow.trans (isPrefix_flatMap_range (rowBytes s) hh)

/-- A word at offset k, its highest byte first, is read there, and what follows it stands at offset k + 4. -/
theorem State.CanvasLegal.read_be32 (hp : s.params.legal = true) {k : Nat} {v : Word} {l : List Byte}
    (hv : (fileList s).drop k = be32 v ++ l) : fileBE32 s k = some v.toNat ∧ (fileList s).drop (k + 4) = l := by
  have hbyte := hc.fileByte_of_drop hp hv
  have h0 : fileByte s k = some (v.extractLsb' 24 8) := hbyte 0
  have h1 : fileByte s (k + 1) = some (v.extractLsb' 16 8) := hbyte 1
  have h2 : fileByte s (k + 2) = some (v.extractLsb' 8 8) := hbyte 2
  have h3 : fileByte s (k + 3) = some (v.extractLsb' 0 8) := hbyte 3
  constructor
  · rw [fileBE32, h0, h1, h2, h3, ← toNat_eq_sum_bytes32 v]
    exact congrArg some (by omega)
  · rw [← List.drop_drop, hv]
    rfl

end

/-- Settles O32: with alpha four big-endian words stand at offset 54, without it the pixel data begins there. -/
theorem channelMaskBlock : Obligations.ChannelMaskBlock := by
  refine ⟨fun s hp hconf hi hal => ?_, fun s hp hconf hi hal => ?_⟩ <;> have hc : s.CanvasLegal := hi.1 hconf
  · obtain ⟨hred, h58⟩ := hc.read_be32 hp (drop_dibBase_of_alpha hal)
    obtain ⟨hgreen, h62⟩ := hc.read_be32 hp h58
    obtain ⟨hblue, h66⟩ := hc.read_be32 hp h62
    obtain ⟨halpha, -⟩ := hc.read_be32 hp h66
    exact ⟨hred, hgreen, hblue, halpha⟩
  · obtain ⟨l, hl⟩ := hc.firstPixel_isPrefix
    have h54 : (fileList s).drop 54 = pixelBytes false (pixRead s 0 0) ++ l := by
      rw [drop_dibBase, maskBlock, hal, ← hl, hal]; rfl
    have hbyte := hc.fileByte_of_drop hp h54
    exact ⟨hbyte 0, hbyte 1, hbyte 2⟩

/-! ### The properties of R173 -/

/-- Read as a signed number the height field is the negated height: no canvas has 2^31 rows or more (R7, R155). -/
theorem State.CanvasLegal.toInt_heightField {s : State} (hc : s.CanvasLegal) (hp : s.params.legal = true) :
    (heightField s).toInt = -(s.curHeight.toNat : Int) := by
  obtain ⟨-, ⟨-, hmax⟩, -⟩ := (legal_params_iff _).mp hp
  obtain ⟨-, ⟨-, hh⟩, -⟩ := hc
  rw [heightField, u32, BitVec.toInt_ofInt]
  exact Int.bmod_eq_of_le (by omega) (by omega)

/-- Settles O33, from the two headers' fields (O30, O31) and the mask block. -/
theorem headerProperties : Obligations.HeaderProperties := by
  intro s hp hconf hi
  have hc : s.CanvasLegal := hi.1 hconf
  have ⟨_, ⟨hh, _⟩, _⟩ := hc
  obtain ⟨hB, hM, hsize, -, -, -, -, -, -, -, -, hoffset⟩ := fileHeaderBytes s hp hconf hi
  obtain ⟨hdib, -, hheight, -⟩ := dibHeaderFields s hp hconf hi
  refine ⟨hB, hM, hsize, hoffset, ⟨_, hheight, ?_⟩, fun hal => ?_, fun hal => ?_⟩
  · rw [← toNat_heightField hh, BitVec.ofNat_toNat, BitVec.setWidth_eq, hc.toInt_heightField hp]
  · simp only [hc.fileByte_of_drop hp (drop_dibBase_of_alpha hal)]
    rfl
  · rw [hdib, hal]; rfl

/-! ### A stream whose sink does not take (R170, R242) -/

section
variable {s t : State}

theorem State.RunsCommand.phase_ne_stream (rc : s.RunsCommand) : s.phase ≠ .stream := by
  obtain ⟨-, hexec, -⟩ := rc
  rw [hexec]; nofun

/-- In phase STREAM nothing but a transfer or a reset takes a byte, moves K or ends the phase, and nothing else changes
a port whose OUT_VALID is raised (R170). -/
theorem StepEffect.stream_waits (e : StepEffect s t) (hs : s.phase = .stream) (htr : ¬ s.Transfers)
    (hm : nextMove s ≠ .rst true) :
    (s.out.valid = true → t.out = s.out) ∧ t.k = s.k ∧ t.phase = .stream ∧ t.sinkLog = s.sinkLog := by
  cases e with
  | issued _ _ _ _ _ hidle => exact absurd (hs.symm.trans hidle) nofun
  | commandError _ rc | pixelSet rc | streamStarted rc => exact absurd hs rc.phase_ne_stream
  | configured _ hg | pixelGot hg => exact absurd hs hg.1.phase_ne_stream
  | validRaised _ _ _ _ hlow => exact ⟨fun hv => absurd (hlow.symm.trans hv) nofun, rfl, hs, rfl⟩
  | lastTransfer tr | transferHeld _ tr | transferLowered tr => exact absurd tr htr
  | resetAsserted hrst => exact absurd hrst hm
  | _ => exact ⟨fun _ => rfl, rfl, hs, rfl⟩

/-- While OUT_VALID is raised the sink sees the port (R45). -/
theorem outDataPin_of_valid (hv : s.out.valid = true) : s.outDataPin = s.out.data := if_pos hv

theorem outLastPin_of_valid (hv : s.out.valid = true) : s.outLastPin = s.out.last := if_pos hv

end

/-- Settles O35: the port waits for the transfer, and the pins show the port. -/
theorem streamHoldsUntilTransfer : Obligations.StreamHoldsUntilTransfer := by
  intro s t hv hs h htr hm
  obtain ⟨hport, hk, hstream, hlog⟩ := (step_effect h).stream_waits hs htr hm
  have hout : t.out = s.out := hport hv
  have htv : t.out.valid = true := by rw [hout, hv]
  refine ⟨hout, hk, hstream, hlog, ?_, ?_⟩
  · rw [outDataPin_of_valid htv, outDataPin_of_valid hv, hout]
  · rw [outLastPin_of_valid htv, outLastPin_of_valid hv, hout]

section
variable {s t : State}

/-- Left to itself the system moves no input pin (log entry 1). -/
theorem defaultMove_ne_pin (s : State) : (∀ r, defaultMove s ≠ .sink r) ∧ ∀ a, defaultMove s ≠ .rst a := by
  rw [defaultMove]
  split
  · exact ⟨nofun, nofun⟩
  · cases s.phase <;> cases s.out.valid <;> cases s.outReady <;> exact ⟨nofun, nofun⟩

/-- The next move is a scheduled one unless it is the default one. -/
theorem nextMove_mem_sched (h : nextMove s ≠ defaultMove s) : nextMove s ∈ s.sched := by
  cases hs : s.sched with
  | nil => exact absurd (by rw [nextMove, hs]) h
  | cons m ms => rw [nextMove, hs]; exact List.mem_cons_self

/-- Every step takes one move off the schedule, and a reset leaves the others (log entries 1, 20). -/
theorem StepEffect.sched_eq (e : StepEffect s t) : t.sched = s.sched.tail := by cases e <;> rfl

/-- OUT_READY moves when the sink drives it, and not otherwise (R45). -/
theorem StepEffect.outReady_eq (e : StepEffect s t) : t.outReady = s.outReady ∨ nextMove s = .sink t.outReady := by
  cases e with
  | sinkDrove r hm => exact .inr hm
  | _ => exact .inl rfl

end

/-- A stream that nothing scheduled will move: OUT_READY is low, and neither OUT_READY nor RST is to be raised. -/
structure State.Stalled (s : State) : Prop where
  stream : s.phase = .stream
  notReady : s.outReady = false
  quiet : ∀ m ∈ s.sched, m ≠ .sink true ∧ m ≠ .rst true

section
variable {s t : State}

theorem State.Stalled.nextMove_ne (h : s.Stalled) : nextMove s ≠ .sink true ∧ nextMove s ≠ .rst true := by
  by_cases hd : nextMove s = defaultMove s
  · obtain ⟨hsink, hrst⟩ := defaultMove_ne_pin s
    rw [hd]; exact ⟨hsink true, hrst true⟩
  · exact h.quiet _ (nextMove_mem_sched hd)

theorem State.Stalled.not_transfers (h : s.Stalled) : ¬ s.Transfers :=
  fun ⟨_, _, _, _, hready⟩ => absurd (h.notReady.symm.trans hready) nofun

/-- R242: a step of a stalled stream leaves it stalled, with nothing taken. -/
theorem State.Stalled.keeps (h : s.Stalled) (hstep : step s = .next t) :
    t.Stalled ∧ t.k = s.k ∧ t.sinkLog = s.sinkLog := by
  have e := step_effect hstep
  obtain ⟨hsink, hrst⟩ := h.nextMove_ne
  obtain ⟨-, hk, hstream, hlog⟩ := e.stream_waits h.stream h.not_transfers hrst
  have hready : t.outReady = false := by
    rcases e.outReady_eq with hr | hr
    · exact hr.trans h.notReady
    · exact Bool.eq_false_of_not_eq_true fun htrue => hsink (htrue ▸ hr)
  exact ⟨⟨hstream, hready, fun m hm => h.quiet m (List.mem_of_mem_tail (e.sched_eq ▸ hm))⟩, hk, hlog⟩

end

/-- A CMD write while BUSY sets OVR and is dropped (R95). -/
theorem busWrite_cmd_of_busy {s : State} (hb : s.busy = true) (v : Word) :
    busWrite s 0x00 v = { s with ovr := true } := by
  rw [show (0x00 : BusAddr) = Reg.cmd.offset from rfl, busWrite_offset, writeReg, issue, if_pos hb]

/-- Settles O40, by induction on the run: each step leaves the stream stalled where it is. -/
theorem stalledSinkStaysBusy : Obligations.StalledSinkStaysBusy := by
  intro n s t hs hready hquiet hrun
  obtain ⟨hstall, hk, hlog⟩ : t.Stalled ∧ t.k = s.k ∧ t.sinkLog = s.sinkLog := by
    refine run_induction (P := fun u => u.Stalled ∧ u.k = s.k ∧ u.sinkLog = s.sinkLog) (Q := fun _ => True)
      (fun u v _ hstep ⟨hu, huk, hulog⟩ => ?_) (fun _ _ _ _ => trivial) hrun ⟨⟨hs, hready, hquiet⟩, rfl, rfl⟩
    obtain ⟨hv, hvk, hvlog⟩ := hu.keeps hstep
    exact ⟨hv, hvk.trans huk, hvlog.trans hulog⟩
  have hbusy : t.busy = true := by rw [State.busy, hstall.stream]; rfl
  exact ⟨hbusy, hstall.stream, hk, hlog, busWrite_cmd_of_busy hbusy⟩

end Sys2Proof.Machine

/-! The error codes: that an error changes nothing else (O42), and the test for a canvas (O26). -/

namespace Sys2Proof.Machine

/-! ### An error is all or nothing (R200) -/

/-- The one effect that leaves a nonzero code where ERR was 0 is a command's error. -/
theorem StepEffect.eq_raiseError {s t : State} (e : StepEffect s t) (herr : s.err = .ok) (hne : t.err ≠ .ok) :
    s.RunsCommand ∧ t = raiseError t.err (advance s) := by
  cases e with
  | commandError _ rc => exact ⟨rc, rfl⟩
  | issued | configured | pixelSet | pixelGot | lastTransfer | resetAsserted => exact absurd rfl hne
  | _ => exact absurd herr hne

/-- Settles O42: a command's error is the only effect of a step that can leave the code. -/
theorem errorsChangeNothingElse : Obligations.ErrorsChangeNothingElse :=
  fun _ _ _ herr h hne => ((step_effect h).eq_raiseError herr hne).2

/-! ### The test for a canvas (R203) -/

theorem accessError_of_not_configured {s : State} (hc : s.configured = false) : accessError s = some .noCanvas :=
  if_pos hc

theorem exec_of_not_configured {s : State} {i : Instr} (hi : i = .setPixel ∨ i = .getPixel ∨ i = .serialize)
    (hc : s.configured = false) : exec i s = .next (raiseError .noCanvas s) := by
  have he := accessError_of_not_configured hc
  rcases hi with rfl | rfl | rfl
  · exact exec_setPixel_of_error he
  · exact exec_getPixel_of_error he
  · exact exec_serialize_of_not_configured hc

/-- CONFIGURE's code is decided by its operands (R116). -/
theorem err_of_exec_configure {s t : State} {al : Bool} (h : exec (.configure al) s = .next t) :
    t.err = if s.DimsOk then .ok else .invalidDimension := by
  obtain ⟨u, hu, herr⟩ := exec_configure_err s al
  rw [hu] at h; cases h
  exact herr

/-- Settles O26: without a canvas the three answer before they look at an operand, and CONFIGURE's code is read off
its dimensions, which are the same with CONFIGURED the other way. -/
theorem canvasIsCheckedFirst : Obligations.CanvasIsCheckedFirst := by
  refine ⟨fun s i hi hc => exec_of_not_configured hi hc, fun s t al h => ?_, fun s t al h => ?_⟩
  · rw [err_of_exec_configure h]
    split <;> decide
  · obtain ⟨u, hu, herr⟩ := exec_configure_err { s with configured := !s.configured } al
    exact ⟨u, hu, herr.trans (err_of_exec_configure h).symm⟩

end Sys2Proof.Machine

/-! The end of a run (O8): with the host program over, the block idle and nothing scheduled, a step does nothing. -/

namespace Sys2Proof.Machine

section
variable {s : State}

theorem nextMove_of_sched_nil (h : s.sched = []) : nextMove s = defaultMove s := by
  rw [nextMove, h]

/-- In IDLE the block has nothing to do, with RST asserted or not, so the host is to move (log entry 1). -/
theorem defaultMove_of_idle (h : s.phase = .idle) : defaultMove s = .host := by
  rw [defaultMove, h]
  exact ite_self _

/-- A host whose program is over accesses nothing (R248). -/
theorem hostMove_of_program_nil (h : s.program = []) : hostMove s = s := by
  simp only [hostMove, h]

/-- Beside the move, a step with nothing scheduled only draws a free value (log entries 1, 8). -/
theorem advance_of_sched_nil (h : s.sched = []) : advance s = { s with draws := s.draws + 1 } := by
  rw [advance, h, List.tail_nil, ← h]

end

/-- Settles O8: the default move in IDLE is the host's, and the host has nothing left to do. -/
theorem runOverStandsStill : Obligations.RunOverStandsStill := by
  intro s ⟨hprogram, hidle⟩ hsched
  have hmove : nextMove s = .host := (nextMove_of_sched_nil hsched).trans (defaultMove_of_idle hidle)
  have hstill : hostMove (advance s) = advance s := hostMove_of_program_nil hprogram
  calc step s = .next (hostMove (advance s)) := by rw [step_eq, hmove, applyMove_host]
    _ = .next { s with draws := s.draws + 1 } := by rw [hstill, advance_of_sched_nil hsched]

end Sys2Proof.Machine

/-! A whole SERIALIZE with a ready sink (O39), the open parameters (O50), and the invariant at reset (O53). -/

namespace Sys2Proof.Machine

/-! ### The block's default moves (log entry 1) -/

section
variable {s t : State}

/-- Out of reset, phase EXEC is the engine's to end. -/
theorem defaultMove_of_exec (hr : s.rst = false) (h : s.phase = .exec) : defaultMove s = .engine := by
  simp only [defaultMove, hr, h, Bool.false_eq_true, if_false]

/-- In phase STREAM with OUT_VALID low the engine raises it. -/
theorem defaultMove_of_not_valid (hr : s.rst = false) (h : s.phase = .stream) (hv : s.out.valid = false) :
    defaultMove s = .engine := by
  simp only [defaultMove, hr, h, hv, Bool.false_eq_true, if_false]

/-- A byte offered to a ready sink is transferred, and OUT_VALID stays raised (log entry 11). -/
theorem defaultMove_of_valid (hr : s.rst = false) (h : s.phase = .stream) (hv : s.out.valid = true)
    (hready : s.outReady = true) : defaultMove s = .transfer true := by
  simp only [defaultMove, hr, h, hv, hready, Bool.false_eq_true, if_false, if_true]

theorem run_succ_of_step (h : step s = .next t) (n : Nat) : core.run (n + 1) s = core.run n t := by
  simp only [Host.Core.run, core, h]

end

/-! ### What a SERIALIZE leaves alone (R171) -/

/-- t is s but for STATUS.ERR, PHASE, K, N, the output port and the model's records of the stream. -/
def SameButStream (s t : State) : Prop :=
  t = { s with err := t.err, phase := t.phase, k := t.k, n := t.n, out := t.out, sinkLog := t.sinkLog,
               draws := t.draws }

section
variable {s t u : State}

theorem SameButStream.trans (h : SameButStream s t) (h' : SameButStream t u) : SameButStream s u := by
  unfold SameButStream at h h' ⊢
  rw [h', h]

theorem sameButStream_advance (h : s.sched = []) : SameButStream s (advance s) := by
  rw [advance_of_sched_nil h]; rfl

theorem sameButStream_startStream (s : State) : SameButStream s (startStream s) := rfl

theorem sameButStream_emitByte (s : State) : SameButStream s (emitByte s) := rfl

theorem sameButStream_complete (s : State) : SameButStream s (complete s) := rfl

theorem sameButStream_withOut (s : State) (out : OutPort) : SameButStream s { s with out := out } := rfl

end

/-! ### The stream, byte by byte (R170, R171) -/

/-- A SERIALIZE under way with nothing scheduled: its byte at the cursor is offered to a ready sink, which has taken
the first K bytes of the file since `before`. -/
structure State.Delivering (before : List Transfer) (s : State) : Prop where
  inv : s.Inv
  sched : s.sched = []
  released : s.rst = false
  ready : s.outReady = true
  stream : s.phase = .stream
  valid : s.out.valid = true
  taken : s.sinkLog.reverse = before ++ (fileTransfers s).take s.k.toNat

/-- t is s after the end of a SERIALIZE, which ends without an error and has left the sink with `log`. -/
structure Delivered (log : List Transfer) (s t : State) : Prop where
  log_eq : t.sinkLog.reverse = log
  idle : t.phase = .idle
  ok : t.err = .ok
  low : t.out.valid = false
  same : SameButStream s t

theorem Delivered.of_sameButStream {log : List Transfer} {s t u : State} (h : Delivered log t u)
    (hs : SameButStream s t) : Delivered log s u :=
  ⟨h.log_eq, h.idle, h.ok, h.low, hs.trans h.same⟩

section
variable {before : List Transfer} {s t : State}

theorem State.Delivering.nextMove_eq (h : s.Delivering before) : nextMove s = .transfer true :=
  (nextMove_of_sched_nil h.sched).trans (defaultMove_of_valid h.released h.stream h.valid h.ready)

theorem State.Delivering.cursor_lt (h : s.Delivering before) : s.k.toNat < s.layout.fileSize.toNat := by
  obtain ⟨-, -, -, -, -, hs, -⟩ := h.inv
  obtain ⟨-, -, hlt, -⟩ := hs h.stream
  exact hlt

theorem State.Delivering.toNat_k_succ (h : s.Delivering before) : (s.k + 1).toNat = s.k.toNat + 1 := by
  obtain ⟨-, -, -, -, -, hs, -⟩ := h.inv
  exact hs.toNat_k_succ h.stream

/-- A transfer adds the next byte of the file to what the sink has taken. -/
theorem State.Delivering.taken_succ (h : s.Delivering before) :
    (emitByte s).sinkLog.reverse = before ++ (fileTransfers s).take (s.k.toNat + 1) := by
  obtain ⟨hp, hc⟩ := h.inv.canvasLegal_of_stream h.stream
  obtain ⟨-, -, -, -, -, -, hport, -⟩ := h.inv
  obtain ⟨b, hb, hlog⟩ := hport.sinkLog_emitByte h.valid
  rw [hlog, List.reverse_cons, h.taken, hc.take_fileTransfers_succ hp hb, List.append_assoc]

/-- The step of a delivery: the last transfer of the file, or one after which the next byte is offered. -/
theorem State.Delivering.step_cases (h : s.Delivering before) :
    (s.k + 1 = s.layout.fileSize ∧ step s = .next (complete (emitByte (advance s)))) ∨
    (s.k + 1 ≠ s.layout.fileSize ∧ ∃ out : OutPort, out.valid = true ∧
      step s = .next { emitByte (advance s) with out := out }) := by
  have hmove : step s = transferMove true (advance s) := by
    rw [step_eq, h.nextMove_eq, applyMove_transfer (s := advance s) true h.released]
  rcases transferMove_cases true (advance s) with ⟨hnot, -⟩ | ⟨-, hk, h'⟩ | ⟨-, hk, -, h'⟩ | ⟨-, -, hhold, -⟩
  · rw [(canTransfer_iff (advance s)).mpr ⟨h.stream, h.valid, h.ready⟩] at hnot; cases hnot
  · exact .inl ⟨hk, hmove.trans h'⟩
  · rcases driveByte_cases (emitByte (advance s)) with ⟨b, -, hd⟩ | ⟨-, hd⟩ <;> rw [h', hd] at hmove
    · exact .inr ⟨hk, _, rfl, hmove⟩
    · obtain ⟨t, ht⟩ := stepAlwaysAnswers s h.inv
      cases hmove.symm.trans ht
  · cases hhold

theorem State.Delivering.sameButStream_emit (h : s.Delivering before) : SameButStream s (emitByte (advance s)) :=
  (sameButStream_advance h.sched).trans (sameButStream_emitByte _)

/-- The last transfer completes the SERIALIZE with the whole file taken. -/
theorem State.Delivering.delivered_of_last (h : s.Delivering before) (hend : s.k + 1 = s.layout.fileSize) :
    Delivered (before ++ fileTransfers s) s (complete (emitByte (advance s))) := by
  obtain ⟨hp, hc⟩ := h.inv.canvasLegal_of_stream h.stream
  have hall : (fileTransfers s).length ≤ s.k.toNat + 1 := by
    rw [hc.length_fileTransfers hp, ← h.toNat_k_succ, hend]
  refine ⟨?_, rfl, rfl, rfl, h.sameButStream_emit.trans (sameButStream_complete _)⟩
  exact h.taken_succ.trans (by rw [List.take_of_length_le hall])

/-- An earlier transfer goes on with the delivery. -/
theorem State.Delivering.next {out : OutPort} (h : s.Delivering before) (hv : out.valid = true)
    (hstep : step s = .next { emitByte (advance s) with out := out }) :
    State.Delivering before { emitByte (advance s) with out := out } := by
  refine ⟨stepKeepsInvariant s _ h.inv hstep, congrArg List.tail h.sched, h.released, h.ready, h.stream, hv, ?_⟩
  exact h.taken_succ.trans (by rw [← h.toNat_k_succ]; rfl)

/-- A delivery with n bytes to go ends in n steps, by induction on n. -/
theorem State.Delivering.run {n : Nat} (h : s.Delivering before) (hn : s.k.toNat + n = s.layout.fileSize.toNat) :
    ∃ t, core.run n s = .next t ∧ Delivered (before ++ fileTransfers s) s t := by
  induction n generalizing s with
  | zero => exact absurd hn h.cursor_lt.ne
  | succ n ih =>
    have hk := h.toNat_k_succ
    rcases h.step_cases with ⟨hend, hstep⟩ | ⟨-, out, hv, hstep⟩
    · obtain rfl : n = 0 := by rw [← hend] at hn; omega
      exact ⟨_, run_succ_of_step hstep 0, h.delivered_of_last hend⟩
    · have hrest : (s.k + 1).toNat + n = s.layout.fileSize.toNat := by omega
      obtain ⟨t, hrun, hd⟩ := ih (h.next hv hstep) hrest
      refine ⟨t, (run_succ_of_step hstep n).trans hrun, hd.of_sameButStream ?_⟩
      exact h.sameButStream_emit.trans (sameButStream_withOut _ out)

end

/-! ### From issue to the first byte offered (R171, R172) -/

section
variable {s : State}

/-- A SERIALIZE of a canvas, issued, out of reset: the engine's step starts the stream (R172). -/
theorem step_starts_stream (hconf : s.configured = true) (hexec : s.phase = .exec)
    (hword : s.lc.word = encode .serialize) (hr : s.rst = false) (hsched : s.sched = []) :
    step s = .next (startStream (advance s)) := by
  have rc : s.RunsCommand := ⟨(nextMove_of_sched_nil hsched).trans (defaultMove_of_exec hr hexec), hexec, hr⟩
  rw [step_of_runsCommand rc (hword ▸ decode_encode .serialize), exec_serialize_of_configured (s := advance s) hconf]

/-- The first byte of a stream is offered in one step, to a sink that has taken none of the file yet. -/
theorem State.Inv.offers_first_byte (hi : s.Inv) (hs : s.phase = .stream) (hk : s.k = 0) (hv : s.out.valid = false)
    (hr : s.rst = false) (hsched : s.sched = []) (hready : s.outReady = true) :
    ∃ out, step s = .next { advance s with out := out } ∧
      State.Delivering s.sinkLog.reverse { advance s with out := out } := by
  have hmove : nextMove s = .engine := (nextMove_of_sched_nil hsched).trans (defaultMove_of_not_valid hr hs hv)
  have hfirst : s.sinkLog.reverse = s.sinkLog.reverse ++ (fileTransfers s).take s.k.toNat := by
    rw [hk]; exact (List.append_nil _).symm
  have hdrive : step s = driveByte (advance s) := by
    rw [step_eq, hmove, applyMove_engine (s := advance s) hr, engineMove_of_not_valid (s := advance s) hs hv]
  rcases driveByte_cases (advance s) with ⟨b, -, hd⟩ | ⟨-, hd⟩ <;> rw [hd] at hdrive
  · exact ⟨_, hdrive, stepKeepsInvariant s _ hi hdrive, congrArg List.tail hsched, hr, hready, hs, rfl, hfirst⟩
  · obtain ⟨t, ht⟩ := stepAlwaysAnswers s hi
    cases hdrive.symm.trans ht

end

/-- Settles O39: one step starts the stream, one offers the first byte, and FILE_SIZE transfers end it. -/
theorem serializeDeliversWholeFile : Obligations.SerializeDeliversWholeFile := by
  intro s hi hconf hexec hword hr hsched hready
  have hstart := step_starts_stream hconf hexec hword hr hsched
  have hlow : s.out.valid = false := by
    obtain ⟨-, -, -, -, -, -, hport, -⟩ := hi
    exact Bool.eq_false_iff.mpr fun hv => absurd (hexec.symm.trans (hport hv).1) nofun
  have hnil : (startStream (advance s)).sched = [] := congrArg List.tail hsched
  obtain ⟨out, hoffer, hdelivering⟩ := (stepKeepsInvariant s _ hi hstart).offers_first_byte rfl rfl hlow hr hnil hready
  obtain ⟨t, hrun, hd⟩ := hdelivering.run (n := s.layout.fileSize.toNat) (Nat.zero_add _)
  have hsame : SameButStream s t :=
    (sameButStream_advance hsched).trans <| (sameButStream_startStream _).trans <|
      (sameButStream_advance hnil).trans <| (sameButStream_withOut _ out).trans hd.same
  refine ⟨t, ?_, hd.log_eq, hd.idle, hd.ok, hd.low, hsame⟩
  rw [run_succ_of_step hstart, run_succ_of_step hoffer, hrun]

/-! ### The open parameters and reset -/

/-- Settles O50, over the effects a step can have. -/
theorem parametersNeverChange : Obligations.ParametersNeverChange :=
  fun _ _ h => (step_effect h).params_eq

/-- Settles O53: at reset there is no canvas, the pixel store lists nothing, and the engine and the port are idle. -/
theorem resetMeetsInvariant : Obligations.ResetMeetsInvariant := by
  have hlegal : State.reset.params.legal = true := by decide
  have hstore : State.reset.StoreInv := ⟨reset_pix_wf, nofun⟩
  obtain ⟨hcanvas, -⟩ := layoutFollowsCanvas
  obtain ⟨hopaque, -⟩ := opaqueOn24BitCanvas
  exact ⟨⟨hlegal, hcanvas, hstore, hopaque, ⟨rfl, fun _ => rfl⟩, nofun, nofun, nofun⟩, nofun⟩

end Sys2Proof.Machine
